-- ==== Sys2Proof/Word.lean ====
section
/-! DEFINITION. The one word type of the block: `u8` of `00_scope.md` rule R19. -/

namespace Sys2Proof

/-- An unsigned 8-bit value (R19). Its `+` is the spec's `+8`, addition modulo 256. -/
abbrev Byte := BitVec 8

end Sys2Proof
end

