-- ==== Sys2Proof/Config.lean ====
section
/-! DEFINITION. The parameters of `00_scope.md` rules R8 to R16 and the free values. -/

namespace Sys2Proof

/-- `BUF_CAP` (R8): the number of cells of the payload buffer. -/
abbrev bufCap : Nat := 256

/-- `MAX_SIZE` (R9): the largest payload length a frame can declare. -/
abbrev maxSize : Nat := 255

/-- `START_PRIMARY` (R10). -/
abbrev startPrimary : Byte := 0x62

/-- `START_LEGACY` (R10). -/
abbrev startLegacy : Byte := 0x61

/-- `TX_START` (R11, `90_conflicts.md` C1): the start byte of every frame the encoder builds. -/
abbrev txStart : Byte := 0x61

/-- The OPEN parameters (R12 to R14): fixed when the block is instantiated (R36). -/
structure Config where
  /-- `STALL_THRESHOLD` (R12, P1), in ticks. -/
  stallThreshold : Nat
  /-- `CHECK_PERIOD` (R13, P2), in ticks. -/
  checkPeriod : Nat
  /-- `ELAPSED_W` (R14, P3), the width of the elapsed counter. -/
  elapsedW : Nat
  deriving DecidableEq, Repr

/-- The largest value of the elapsed counter, `2^ELAPSED_W - 1` (R14). -/
def Config.elapsedMax (c : Config) : Nat := 2 ^ c.elapsedW - 1

/-- The constraints of R13 and R14; a configuration that breaks one is refused
(`93_implementation_defined.md` I9). -/
def Config.valid (c : Config) : Bool :=
  decide (1 ≤ c.checkPeriod) && decide (c.stallThreshold < c.elapsedMax)

/-- Free value (log 9): `rd_data` of a clock whose `rd_addr` names a cell never written; "In a
circuit, the value read is `any value`" (I1). -/
opaque Config.freeRdData : Nat → Byte

/-- Free value (log 9): `fd_status_rx` in a clock without a `ChecksumMismatch` (R143 gives none). -/
opaque Config.freeStatusRx : Nat → Byte

/-- Free value (log 9): `fd_status_calc` in a clock without a `ChecksumMismatch`. -/
opaque Config.freeStatusCalc : Nat → Byte

/-- Free value (log 9): `reconnect_release` in a clock without `reconnect_req`. -/
opaque Config.freeRelease : Nat → Bool

/-- Free value (log 9): `wd_status_elapsed` in a clock without a `Stall`; the port keeps its width,
so the machine reads it modulo `2^ELAPSED_W`. -/
opaque Config.freeElapsed : Nat → Nat

end Sys2Proof
end

