-- ==== Sys2Proof/Syntax.lean ====
section
/-! DEFINITION. The rows of `spec/opcode_table.json`, one constructor each. -/

namespace Sys2Proof

/-- The table's `direction`: outbound frames are built by the encoder, inbound ones are taken by
the decoder. -/
inductive Direction where
  | outbound
  | inbound
  deriving DecidableEq, Repr

/-- What follows the start byte of an inbound frame attempt. -/
inductive RxTail where
  /-- A size byte of 0: the attempt ends there with `ZeroSize` (R59, R77). -/
  | zeroSize
  /-- A size byte that is the payload's length, the payload and the checksum byte (R55). -/
  | sized (payload : List Byte) (checksum : Byte)
  deriving DecidableEq, Repr

/-- One constructor per row of the opcode table. -/
inductive Instr where
  /-- `LIGHT_A <b>` (R90). -/
  | lightA (p : Byte)
  /-- `LIGHT_B <b>` (R91). -/
  | lightB (p : Byte)
  /-- `LIGHTS_OFF` (R92). -/
  | lightsOff
  /-- `BEACON_ON` (R93). -/
  | beaconOn
  /-- `SWITCH <b>` (R94). -/
  | switch (p : Byte)
  /-- `BEACON_OFF` (R95). -/
  | beaconOff
  /-- `RELEASE_SAFE` (R96). -/
  | releaseSafe
  /-- `RELEASE_ARM` (R97). -/
  | releaseArm
  /-- `RELEASE_FIRE` (R98). -/
  | releaseFire
  /-- `CMD <id>`, the raw form without a payload byte (R71, R99). -/
  | cmdShort (id : Byte)
  /-- `CMD <id> <b>`, the raw form with a payload byte (R71, R99). -/
  | cmdLong (id p : Byte)
  /-- An inbound frame that starts with 0x62 (R58, R75). -/
  | rxFramePrimary (t : RxTail)
  /-- An inbound frame that starts with 0x61 (R58, R75). -/
  | rxFrameLegacy (t : RxTail)
  deriving DecidableEq, Repr

end Sys2Proof
end

