-- ==== Sys2Proof/WellFormed.lean ====
section
/-! DEFINITION. Which terms of `Instr` are spelled by a frame of the opcode table. -/

namespace Sys2Proof

/-- A declared size is 0, or 1 to 255 with that many payload bytes (R59, R9). -/
def RxTail.wf : RxTail → Bool
  | .zeroSize => true
  | .sized payload _ => decide (1 ≤ payload.length) && decide (payload.length ≤ maxSize)

/-- The ids of the 4-byte rows of the table (R63): `CMD <id>` with one of them is that row's frame. -/
def shortIds : List Byte := [0x33, 0x34, 0x35, 0x37, 0x38, 0x39]

/-- The ids of the 5-byte rows of the table (R63). -/
def longIds : List Byte := [0x31, 0x32, 0x34]

/-- Every command form is a frame; a raw `CMD` stands for a frame only where none of the nine rows
above it spells the same one ("A decoder of outbound frames tries the nine rows above first"); an
inbound frame has a size byte that says its payload's length. -/
def Instr.wf : Instr → Bool
  | .lightA _ => true
  | .lightB _ => true
  | .lightsOff => true
  | .beaconOn => true
  | .switch _ => true
  | .beaconOff => true
  | .releaseSafe => true
  | .releaseArm => true
  | .releaseFire => true
  | .cmdShort id => decide (id ∉ shortIds)
  | .cmdLong id _ => decide (id ∉ longIds)
  | .rxFramePrimary t => t.wf
  | .rxFrameLegacy t => t.wf

end Sys2Proof
end

