-- ==== Sys2Proof/Decode.lean ====
section
/-! DEFINITION. Frames to instructions, total and rejecting by name; then instructions to frames,
written from the encoding rules R55 to R63. -/

namespace Sys2Proof

/-- Why a list of bytes is no frame of the opcode table. -/
inductive Reject where
  /-- The frame ends before its last byte. -/
  | truncated
  /-- The first byte is no start byte of that direction (R58, R61). -/
  | badStart
  /-- The size byte of an outbound frame is neither 1 nor 2 (R62). -/
  | badSize
  /-- Bytes are left over where exactly one frame was offered. -/
  | trailing
  deriving DecidableEq, Repr

/-- What the decoder answers: an instruction and the bytes after it, or a rejection. -/
inductive Decoded where
  | ok (i : Instr) (rest : List Byte)
  | reject (r : Reject)
  deriving DecidableEq, Repr

/-- The row of R63 that the pair (id, payload byte) is, or the raw form of R71. -/
def requestInstr (id : Byte) (p : Option Byte) : Instr :=
  match p with
  | none =>
    if id = 0x33 then .lightsOff
    else if id = 0x34 then .beaconOn
    else if id = 0x35 then .beaconOff
    else if id = 0x37 then .releaseSafe
    else if id = 0x38 then .releaseArm
    else if id = 0x39 then .releaseFire
    else .cmdShort id
  | some b =>
    if id = 0x31 then .lightA b
    else if id = 0x32 then .lightB b
    else if id = 0x34 then .switch b
    else .cmdLong id b

/-- An outbound frame (R61, R62): start, size 1 or 2, id, payload byte if any, checksum. As in the
table's masks, the checksum byte selects no row (log 5). -/
def decodeOutbound : List Byte → Decoded
  | st :: sz :: rest =>
    if st = txStart then
      if sz = 1 then
        match rest with
        | id :: _ :: rest => .ok (requestInstr id none) rest
        | _ => .reject .truncated
      else if sz = 2 then
        match rest with
        | id :: p :: _ :: rest => .ok (requestInstr id (some p)) rest
        | _ => .reject .truncated
      else .reject .badSize
    else .reject .badStart
  | _ => .reject .truncated

/-- The bytes after an inbound start byte (R55, R59, R69): the size byte, and unless it is 0 that
many payload bytes and one checksum byte. -/
def decodeTail (mk : RxTail → Instr) : List Byte → Decoded
  | sz :: rest =>
    if sz = 0 then .ok (mk .zeroSize) rest
    else
      match rest.drop sz.toNat with
      | c :: after => .ok (mk (.sized (rest.take sz.toNat) c)) after
      | [] => .reject .truncated
  | [] => .reject .truncated

/-- An inbound frame (R58): 0x62 or 0x61, then the tail. -/
def decodeInbound : List Byte → Decoded
  | st :: rest =>
    if st = startPrimary then decodeTail .rxFramePrimary rest
    else if st = startLegacy then decodeTail .rxFrameLegacy rest
    else .reject .badStart
  | [] => .reject .truncated

/-- The decoder. The direction is part of the table: the same bytes can be an outbound command and
an inbound legacy frame (the loopback of `95_test_vectors.md` §2.2). -/
def decode : Direction → List Byte → Decoded
  | .outbound, bs => decodeOutbound bs
  | .inbound, bs => decodeInbound bs

/-! ### The encoder -/

/-- `sum8` (R19): the sum of a list of bytes modulo 256. -/
def sum8 : List Byte → Byte
  | [] => 0
  | b :: bs => b + sum8 bs

/-- The frame that `Encode(id, p)` builds (R61, R62, R87). -/
def encodeFrame (id : Byte) (p : Option Byte) : List Byte :=
  let size : Byte := match p with
    | none => 1
    | some _ => 2
  let body := [txStart, size, id] ++ p.toList
  body ++ [sum8 body]

/-- The size byte of an inbound tail and what follows it (R55). -/
def RxTail.bytes : RxTail → List Byte
  | .zeroSize => [0]
  | .sized payload c => BitVec.ofNat 8 payload.length :: (payload ++ [c])

/-- The direction of an instruction's row. -/
def Instr.direction : Instr → Direction
  | .lightA _ => .outbound
  | .lightB _ => .outbound
  | .lightsOff => .outbound
  | .beaconOn => .outbound
  | .switch _ => .outbound
  | .beaconOff => .outbound
  | .releaseSafe => .outbound
  | .releaseArm => .outbound
  | .releaseFire => .outbound
  | .cmdShort _ => .outbound
  | .cmdLong _ _ => .outbound
  | .rxFramePrimary _ => .inbound
  | .rxFrameLegacy _ => .inbound

/-- The bytes of an instruction, from the command map R63 and the wire format R55. -/
def encode : Instr → List Byte
  | .lightA p => encodeFrame 0x31 (some p)
  | .lightB p => encodeFrame 0x32 (some p)
  | .lightsOff => encodeFrame 0x33 none
  | .beaconOn => encodeFrame 0x34 none
  | .switch p => encodeFrame 0x34 (some p)
  | .beaconOff => encodeFrame 0x35 none
  | .releaseSafe => encodeFrame 0x37 none
  | .releaseArm => encodeFrame 0x38 none
  | .releaseFire => encodeFrame 0x39 none
  | .cmdShort id => encodeFrame id none
  | .cmdLong id p => encodeFrame id (some p)
  | .rxFramePrimary t => startPrimary :: t.bytes
  | .rxFrameLegacy t => startLegacy :: t.bytes

/-! ### The opcode table's numbering -/

/-- The `n` low bytes of `w`, the most significant one first: the table writes a frame as one
number whose first byte is the most significant (log 6). -/
def bigEndianBytes : Nat → Nat → List Byte
  | 0, _ => []
  | n + 1, w => BitVec.ofNat 8 (w >>> (8 * n)) :: bigEndianBytes n w

/-- The table gives its inbound rows 8 bits and its outbound rows 32 or 40 (log 6). -/
def tableDirection (nbits : Nat) : Direction := if nbits ≤ 8 then .inbound else .outbound

/-- How many bytes the frame at the front of `bs` has (R56, R59, R69). -/
def frameLength (d : Direction) (bs : List Byte) : Nat :=
  match bs with
  | _ :: sz :: _ =>
    match d with
    | .inbound => if sz = 0 then 2 else sz.toNat + 3
    | .outbound => sz.toNat + 3
  | _ => bs.length

/-- The bytes of one frame whose bits the table numbers as `w`; every bit above `nbits` is 0, up to
the longest frame of 258 bytes (R56). -/
def tableFrame (nbits w : Nat) : List Byte :=
  let padded := bigEndianBytes (nbits / 8) w ++ List.replicate 258 0
  padded.take (frameLength (tableDirection nbits) padded)

/-- The instruction the decoder reads from an instruction whose bits are `w`. -/
def decodeTableWord (nbits w : Nat) : Option Instr :=
  match decode (tableDirection nbits) (tableFrame nbits w) with
  | .ok i _ => some i
  | .reject _ => none

end Sys2Proof
end

