-- ==== Sys2Proof/Machine/State.lean ====
section
/-! DEFINITION. The state of the block (`10_state.md`), its events (`00_scope.md` R17), the ways a
step can stop, and the state after reset. -/

namespace Sys2Proof.Machine

/-- `DecoderState` (R22). -/
inductive DecoderState where
  | awaitingStart
  | awaitingSize
  | awaitingPayload
  | awaitingChecksum
  deriving DecidableEq, Repr

/-- The watchdog's phase (R30). -/
inductive WdState where
  | idle
  | reconnecting
  deriving DecidableEq, Repr

/-- The logged conditions with their recorded values (R114, R116). -/
inductive Status where
  | zeroSize
  | checksumMismatch (received computed : Byte)
  | stall (elapsed : Nat)
  | acquireFail
  deriving DecidableEq, Repr

/-- The input events (R17). -/
inductive Input where
  | reset
  | rxByte (b : Byte)
  | tick
  | xportResult (ok : Bool)
  | encode (id : Byte) (p : Option Byte)
  | bufRead (i : Byte)
  deriving DecidableEq, Repr

/-- The input ports of one clock (R143). -/
structure ClockIn where
  rst : Bool
  rxValid : Bool
  rxByte : Byte
  tick : Bool
  xportDone : Bool
  xportOk : Bool
  rdAddr : Byte
  encId : Byte
  encHasP : Bool
  encP : Byte
  deriving DecidableEq, Repr

/-- The output ports of one clock (R143). `wdStatusElapsed` has `ELAPSED_W` bits, held as a number
below `2^ELAPSED_W`. -/
structure ClockOut where
  rxReady : Bool
  reconnectReq : Bool
  reconnectRelease : Bool
  frameValid : Bool
  outLen : Byte
  outChk : Byte
  rdData : Byte
  fdStatusValid : Bool
  fdStatusCode : BitVec 3
  fdStatusRx : Byte
  fdStatusCalc : Byte
  wdStatusValid : Bool
  wdStatusCode : BitVec 3
  wdStatusElapsed : Nat
  encLen : BitVec 3
  encFrame : BitVec 40
  encKnown : Bool
  encFormOk : Bool
  deriving DecidableEq, Repr

/-- The output events and the returned values (R17); `ports` is what one clock shows (R143). -/
inductive Output where
  /-- `FrameOut` (R82). -/
  | frameOut (payload : List Byte) (checksum : Byte) (checksumValid : Bool)
  /-- `Status(code, info)` (R114). -/
  | status (st : Status)
  /-- `ReconnectReq` (R103). -/
  | reconnectReq (release : Bool)
  /-- The value `Encode` returns (R87). -/
  | encoded (frame : List Byte) (known formOk : Bool)
  /-- The value `BufRead` returns (R42). -/
  | readData (v : Byte)
  /-- The output ports of one clock (R143). -/
  | ports (o : ClockOut)
  deriving DecidableEq, Repr

/-- What the environment offers for one step (log 3): an input event; a frame of the opcode table,
offered whole (log 4); or one clock of the circuit form. -/
inductive Item where
  | event (e : Input)
  | frame (d : Direction) (bytes : List Byte)
  | clock (p : ClockIn)
  deriving DecidableEq, Repr

/-- The payload buffer's written cells, as (index, byte) pairs in canonical form (`Memory.wf`): an
index that is not listed was never written and reads as `none` (R26, I1). -/
abbrev Memory := List Host.Cell

/-- The Frame Decoder's registers (R22 to R27). -/
structure Fd where
  state : DecoderState
  size : Byte
  cnt : Byte
  chk : Byte
  buf : Memory
  outLen : Byte
  outChk : Byte
  deriving DecidableEq, Repr

/-- The Connection Watchdog's registers (R30 to R33). The two counters are only counted and compared,
so they are numbers; `State.Inv` keeps them below `CHECK_PERIOD` and `2^ELAPSED_W`. -/
structure Wd where
  state : WdState
  linkDown : Bool
  checkDiv : Nat
  elapsed : Nat
  deriving DecidableEq, Repr

/-- The tuple `(fd, wd)` of R20 and R39, the configuration the instance was given (R36), and the
model's own three fields: what is offered next, what was emitted so far, and the free values' index. -/
structure State where
  cfg : Config
  fd : Fd
  wd : Wd
  pending : List Item
  outs : List Output
  freeCount : Nat
  deriving DecidableEq, Repr

/-- Why the machine stops with an error. -/
inductive Fault where
  /-- Raised by `BufRead` of a cell that was never written, and by a `FrameOut` whose payload has
  such a cell, which no reachable state has (R29). `93_implementation_defined.md` I1 asks for this
  fault; it is safe: the circuit reads some value there (log 8). -/
  | unwrittenCell
  deriving DecidableEq, Repr

/-- Why the machine has no step. -/
inductive Refusal where
  /-- Raised by `exec` for an instruction without a meaning; no arm raises it now. Safe. -/
  | notModelled (mnemonic : String)
  /-- Raised by the step for a configuration outside R13 and R14: "The input or configuration is
  rejected before a run" (I9). Safe (log 2). -/
  | badConfig
  /-- Raised by the step for an offered frame that spells no row of the opcode table. Safe: the same
  bytes can be offered as events (log 11). -/
  | undecodable (r : Reject)
  deriving DecidableEq, Repr

/-- The registers of the decoder after `Reset`, the buffer apart (R131). -/
def Fd.reset (buf : Memory) : Fd :=
  { state := .awaitingStart, size := 0, cnt := 0, chk := 0, buf := buf, outLen := 0, outChk := 0 }

/-- The registers of the watchdog after `Reset` (R131). -/
def Wd.reset : Wd := { state := .idle, linkDown := true, checkDiv := 0, elapsed := 0 }

/-- The configuration of `State.reset`: DESIGN CHOICE, the spec leaves all three OPEN (log 1). No
statement rests on it. -/
def State.resetConfig : Config := { stallThreshold := 3, checkPeriod := 2, elapsedW := 8 }

/-- The block right after power-on reset (R39, R131, R132). -/
def State.reset : State :=
  { cfg := State.resetConfig, fd := Fd.reset [], wd := Wd.reset, pending := [], outs := [], freeCount := 0 }

end Sys2Proof.Machine
end

