-- ==== Sys2Proof/Machine/Ops.lean ====
section
/-! DEFINITION. The operations the meanings share: outcomes in sequence, the payload buffer, emitting
and raising, `restart`, the byte gate, saturation. -/

namespace Sys2Proof.Machine

/-- Goes on with `f` from a next state; a fault or a refusal stays what it is. -/
def andThen (o : Host.Outcome State Fault Refusal) (f : State → Host.Outcome State Fault Refusal) :
    Host.Outcome State Fault Refusal :=
  match o with
  | .next s => f s
  | .fault r => .fault r
  | .refused r => .refused r

/-! ### The payload buffer -/

/-- `MemRead` (R42, R44): the last value written, `none` for a cell never written. -/
def Memory.read : Memory → Nat → Option Byte
  | [], _ => none
  | (k, v) :: m, a => if k = a then some v else Memory.read m a

/-- `MemWrite` (R43), keeping the indices strictly rising. -/
def Memory.write : Memory → Nat → Byte → Memory
  | [], a, v => [(a, v)]
  | (k, w) :: m, a, v =>
    if a < k then (a, v) :: (k, w) :: m
    else if a = k then (a, v) :: m
    else (k, w) :: Memory.write m a v

/-- The listed indices rise strictly from `lo` on and stay below `BUF_CAP` (R8, R41). -/
def Memory.risingFrom : Nat → Memory → Bool
  | _, [] => true
  | lo, (k, _) :: m => decide (lo ≤ k) && decide (k < bufCap) && Memory.risingFrom (k + 1) m

/-- The canonical form. No listed entry can equal what an unlisted index reads as, which is `none`. -/
def Memory.wf (m : Memory) : Bool := Memory.risingFrom 0 m

/-- The `n` cells from `a` on, `none` if one of them was never written. -/
def Memory.readRange (m : Memory) : Nat → Nat → Option (List Byte)
  | _, 0 => some []
  | a, n + 1 =>
    match m.read a with
    | some v => (Memory.readRange m (a + 1) n).map (v :: ·)
    | none => none

/-- `fd.buf[i] <- v` (R43). -/
def State.memWrite (s : State) (i : Byte) (v : Byte) : State :=
  { s with fd := { s.fd with buf := s.fd.buf.write i.toNat v } }

/-- `fd.buf[i]` (R42). -/
def State.memRead (s : State) (i : Byte) : Option Byte := s.fd.buf.read i.toNat

/-! ### Events -/

/-- `emit E` (R19): appends an output to the step's outputs. -/
def State.emit (s : State) (o : Output) : State := { s with outs := s.outs ++ [o] }

/-- `raise <Cond>(info)` (R19, R117): emits the status and nothing else; the block has no traps, so
this is all that taking a condition does. -/
def State.raise (s : State) (st : Status) : State := s.emit (.status st)

/-- `restart` (R73): the decoder's terminal transition, the way back from every condition of the
decoder (R118). -/
def State.restart (s : State) : State :=
  { s with fd := { s.fd with state := .awaitingStart, size := 0, cnt := 0, chk := 0 } }

/-- The number of a status on a port (R114). -/
def Status.code : Status → BitVec 3
  | .zeroSize => 1
  | .checksumMismatch _ _ => 2
  | .stall _ => 3
  | .acquireFail => 4

/-- The grades of R114. -/
inductive Severity where
  | error
  | warning
  deriving DecidableEq, Repr

/-- The severity of a status (R114). -/
def Status.severity : Status → Severity
  | .zeroSize => .error
  | .checksumMismatch _ _ => .error
  | .stall _ => .warning
  | .acquireFail => .error

/-! ### Registers -/

/-- The 2-bit encoding of `fd.state` (R22). -/
def DecoderState.code : DecoderState → BitVec 2
  | .awaitingStart => 0
  | .awaitingSize => 1
  | .awaitingPayload => 2
  | .awaitingChecksum => 3

/-- The 1-bit encoding of `wd.state` (R30). -/
def WdState.code : WdState → BitVec 1
  | .idle => 0
  | .reconnecting => 1

/-- `rx_enable` (R34), the byte gate. -/
def State.rxEnable (s : State) : Bool := decide (s.wd.state = .idle) && !s.wd.linkDown

/-- `sat_inc_N` (R19), for the width whose largest value is `max`. -/
def satInc (max v : Nat) : Nat := if v = max then v else v + 1

end Sys2Proof.Machine
end

