-- ==== Sys2Proof/Machine/Operands.lean ====
section
/-! DEFINITION. The operand forms: the payload byte of a command and the bytes of an inbound frame. -/

namespace Sys2Proof.Machine

/-- A bool payload (R65): false is 0x00, true is 0x01. -/
def boolByte (b : Bool) : Byte := if b then 0x01 else 0x00

/-- The optional payload byte on the encoder's ports (R143): `enc_has_p ? some enc_p : none`. -/
def optionalPayload (hasP : Bool) (p : Byte) : Option Byte := if hasP then some p else none

/-- The two bytes the decoder takes as a start byte (R58, R74). -/
def isStartMarker (b : Byte) : Bool := decide (b = startPrimary) || decide (b = startLegacy)

/-- The bytes of an inbound frame in wire order (R45): start byte, size byte, payload, checksum. -/
def inboundBytes (start : Byte) (t : RxTail) : List Byte := start :: t.bytes

end Sys2Proof.Machine
end

