-- ==== Sys2Proof/Machine/Flags.lean ====
section
/-! DEFINITION. The flag-like values of R35: the encoder's `known` and `form_ok`. (`checksum_valid` is
the constant of R82 and `rx_enable` is `State.rxEnable`.) -/

namespace Sys2Proof.Machine

/-- `known` (R66): the id is one of the command map's. -/
def known (id : Byte) : Bool :=
  decide (id ∈ ([0x31, 0x32, 0x33, 0x34, 0x35, 0x37, 0x38, 0x39] : List Byte))

/-- `form_ok` (R66): the id and the presence of a payload byte are a row of the command map. -/
def formOk (id : Byte) (p : Option Byte) : Bool :=
  match p with
  | none => decide (id ∈ shortIds)
  | some _ => decide (id ∈ longIds)

end Sys2Proof.Machine
end

