-- ==== Sys2Proof/Machine/Decoder.lean ====
section
/-! DEFINITION. The Frame Decoder (`41_decoder.md`): one byte step, and the meanings of the two inbound
rows, which are their frames' bytes taken one after another. -/

namespace Sys2Proof.Machine

/-- A start marker while idle (R75). -/
def rxStartMarker (b : Byte) (s : State) : State :=
  { s with fd := { s.fd with chk := b, cnt := 0, state := .awaitingSize } }

/-- Any other byte while idle (R76): framing noise, nothing is written and nothing emitted. -/
def rxNoise (s : State) : State := s

/-- A size byte of 0 (R77). -/
def rxZeroSize (s : State) : State := (s.raise .zeroSize).restart

/-- A size byte of 1 to 255 (R78). -/
def rxSize (b : Byte) (s : State) : State :=
  { s with fd := { s.fd with size := b, chk := s.fd.chk + b, state := .awaitingPayload } }

/-- A payload byte (R79): stored at `fd.cnt`, summed, counted; the incremented count is compared. -/
def rxPayload (b : Byte) (s : State) : State :=
  let s := s.memWrite s.fd.cnt b
  let s := { s with fd := { s.fd with chk := s.fd.chk + b, cnt := s.fd.cnt + 1 } }
  if s.fd.cnt = s.fd.size then { s with fd := { s.fd with state := .awaitingChecksum } } else s

/-- The writes of R80 once the payload is read: the frame is emitted with `checksum_valid = true`
(R82), latched (R27), and counts as liveness (R107). -/
def emitFrame (payload : List Byte) (b : Byte) (s : State) : State :=
  let s := s.emit (.frameOut payload b true)
  let s := { s with fd := { s.fd with outLen := s.fd.size, outChk := b } }
  let s := { s with wd := { s.wd with elapsed := 0 } }
  s.restart

/-- The checksum byte matches (R80). A payload cell that was never written would fault (I1); none is
in a reachable state (R29). -/
def rxValidFrame (b : Byte) (s : State) : Host.Outcome State Fault Refusal :=
  match s.fd.buf.readRange 0 s.fd.size.toNat with
  | some payload => .next (emitFrame payload b s)
  | none => .fault .unwrittenCell

/-- The checksum byte does not match (R81). -/
def rxMismatch (b : Byte) (s : State) : State :=
  (s.raise (.checksumMismatch b s.fd.chk)).restart

/-- `RxByte(b)` (R74): dropped without a trace while the gate is closed (R108), otherwise one
transition of the decoder. -/
def rxByte (b : Byte) (s : State) : Host.Outcome State Fault Refusal :=
  if s.rxEnable then
    match s.fd.state with
    | .awaitingStart => if isStartMarker b then .next (rxStartMarker b s) else .next (rxNoise s)
    | .awaitingSize => if b = 0 then .next (rxZeroSize s) else .next (rxSize b s)
    | .awaitingPayload => .next (rxPayload b s)
    | .awaitingChecksum => if b = s.fd.chk then rxValidFrame b s else .next (rxMismatch b s)
  else .next s

/-- Bytes taken strictly in arrival order, one step each (R51). -/
def rxBytes : List Byte → State → Host.Outcome State Fault Refusal
  | [], s => .next s
  | b :: bs, s => andThen (rxByte b s) (rxBytes bs)

/-- `RX_FRAME_PRIMARY`: the bytes of a frame that starts with 0x62, offered one after another (R75 to
R83, log 4). -/
def execRxFramePrimary (t : RxTail) (s : State) : Host.Outcome State Fault Refusal :=
  rxBytes (inboundBytes startPrimary t) s

/-- `RX_FRAME_LEGACY`: the same with 0x61; the two start bytes are treated identically (R58, R75). -/
def execRxFrameLegacy (t : RxTail) (s : State) : Host.Outcome State Fault Refusal :=
  rxBytes (inboundBytes startLegacy t) s

end Sys2Proof.Machine
end

