-- ==== Sys2Proof/Machine/Port.lean ====
section
/-! DEFINITION. The consumer's read port (R42) and `Reset` (R131). -/

namespace Sys2Proof.Machine

/-- `BufRead(i)` (R42): returns the cell; a cell never written faults (I1). -/
def bufRead (i : Byte) (s : State) : Host.Outcome State Fault Refusal :=
  match s.memRead i with
  | some v => .next (s.emit (.readData v))
  | none => .fault .unwrittenCell

/-- `Reset` (R131): every register takes its reset value; the buffer is not written (R132) and no
event is emitted. -/
def resetEvent (s : State) : State := { s with fd := Fd.reset s.fd.buf, wd := Wd.reset }

end Sys2Proof.Machine
end

