-- ==== Sys2Proof/Machine/Watchdog.lean ====
section
/-! DEFINITION. The Connection Watchdog (`43_watchdog.md`): the tick, the periodic check and the
transport's answer. -/

namespace Sys2Proof.Machine

/-- The link is live but no valid frame came for longer than the threshold, or there is no link
(R101): the comparison is strict (`90_conflicts.md` C8). -/
def State.wantsReconnect (s : State) : Bool :=
  s.wd.linkDown || decide (s.cfg.stallThreshold < s.wd.elapsed)

/-- `check` (R101, R102): starts at most one reconnect attempt; a `Stall` is raised only on a live
link, and only then is there a handle to release. -/
def check (s : State) : State :=
  match s.wd.state with
  | .reconnecting => s
  | .idle =>
    if s.wantsReconnect then
      let r := if s.wd.linkDown then s else s.raise (.stall s.wd.elapsed)
      let r := r.emit (.reconnectReq (!s.wd.linkDown))
      { r with wd := { r.wd with state := .reconnecting } }
    else s

/-- `Tick` (R100): the elapsed time counts up and saturates; every `CHECK_PERIOD`-th tick checks, after
the increment. -/
def tick (s : State) : State :=
  let s := { s with wd := { s.wd with elapsed := satInc s.cfg.elapsedMax s.wd.elapsed } }
  if s.wd.checkDiv + 1 = s.cfg.checkPeriod then
    check { s with wd := { s.wd with checkDiv := 0 } }
  else { s with wd := { s.wd with checkDiv := s.wd.checkDiv + 1 } }

/-- `XportResult(ok)`: the answer to a reconnect request (R104, R105); ignored when there is none
outstanding (R106). -/
def xportResult (ok : Bool) (s : State) : State :=
  match s.wd.state with
  | .idle => s
  | .reconnecting =>
    if ok then { s with wd := { s.wd with elapsed := 0, linkDown := false, state := .idle } }
    else
      let s := s.raise .acquireFail
      { s with wd := { s.wd with linkDown := true, state := .idle } }

end Sys2Proof.Machine
end

