-- ==== Sys2Proof/Machine/Clock.lean ====
section
/-! DEFINITION. One clock of the circuit form (`70_reset_and_hazards.md` R143). -/

namespace Sys2Proof.Machine

/-- The first status among a clock's events that belongs to the decoder (codes 1 and 2). -/
def decoderStatus : List Output → Option Status
  | [] => none
  | .status .zeroSize :: _ => some .zeroSize
  | .status (.checksumMismatch r c) :: _ => some (.checksumMismatch r c)
  | _ :: os => decoderStatus os

/-- The first status among a clock's events that belongs to the watchdog (codes 3 and 4). -/
def watchdogStatus : List Output → Option Status
  | [] => none
  | .status (.stall e) :: _ => some (.stall e)
  | .status .acquireFail :: _ => some .acquireFail
  | _ :: os => watchdogStatus os

/-- The first reconnect request among a clock's events. -/
def reconnectRequest : List Output → Option Bool
  | [] => none
  | .reconnectReq release :: _ => some release
  | _ :: os => reconnectRequest os

/-- Whether a clock's events hold a `FrameOut`. -/
def hasFrame : List Output → Bool
  | [] => false
  | .frameOut _ _ _ :: _ => true
  | _ :: os => hasFrame os

/-- The code port of a status: 0 means "no status" (R114). -/
def statusPort : Option Status → BitVec 3
  | none => 0
  | some st => st.code

/-- `enc_frame`: byte 0 in bits 39..32, bytes beyond the frame 0 (R143). -/
def packFrame : List Byte → BitVec 40
  | [a, b, c, d] => a ++ b ++ c ++ d ++ (0 : Byte)
  | [a, b, c, d, e] => a ++ b ++ c ++ d ++ e
  | _ => 0

/-- The output ports of a clock with inputs `p`: `start` is the state at its start, `ready` the gate
where the byte was offered, `final` the state after its steps with the clock's events alone in
`outs` (log 10). Ports R143 gives no value in this clock are free values (log 9). -/
def clockPorts (p : ClockIn) (start : State) (ready : Bool) (final : State) : ClockOut :=
  let n := start.freeCount
  let fdSt := decoderStatus final.outs
  let wdSt := watchdogStatus final.outs
  let req := reconnectRequest final.outs
  let encP := optionalPayload p.encHasP p.encP
  let frame := encodeFrame p.encId encP
  { rxReady := ready
    reconnectReq := req.isSome
    reconnectRelease := req.getD (Config.freeRelease n)
    frameValid := hasFrame final.outs
    outLen := final.fd.outLen
    outChk := final.fd.outChk
    rdData := (start.memRead p.rdAddr).getD (Config.freeRdData n)
    fdStatusValid := fdSt.isSome
    fdStatusCode := statusPort fdSt
    fdStatusRx := match fdSt with
      | some (.checksumMismatch r _) => r
      | _ => Config.freeStatusRx n
    fdStatusCalc := match fdSt with
      | some (.checksumMismatch _ c) => c
      | _ => Config.freeStatusCalc n
    wdStatusValid := wdSt.isSome
    wdStatusCode := statusPort wdSt
    wdStatusElapsed := match wdSt with
      | some (.stall e) => e
      | _ => Config.freeElapsed n % 2 ^ start.cfg.elapsedW
    encLen := BitVec.ofNat 3 frame.length
    encFrame := packFrame frame
    encKnown := known p.encId
    encFormOk := formOk p.encId encP }

/-- Ends a clock that began in `start`: its events, then its ports, join the outputs of earlier steps,
and the free values' index moves on. -/
def closeClock (p : ClockIn) (start : State) (ready : Bool) (final : State) : State :=
  { final with
    outs := start.outs ++ final.outs ++ [.ports (clockPorts p start ready final)]
    freeCount := start.freeCount + 1 }

/-- One clock (R143): `Reset` alone when `rst` is high; otherwise `XportResult`, then `RxByte`, then
`Tick`, those that are present. -/
def clock (p : ClockIn) (start : State) : Host.Outcome State Fault Refusal :=
  let s := { start with outs := [] }
  if p.rst then
    let s := resetEvent s
    .next (closeClock p start s.rxEnable s)
  else
    let s := if p.xportDone then xportResult p.xportOk s else s
    let ready := s.rxEnable
    andThen (if p.rxValid then rxByte p.rxByte s else .next s) fun s =>
      let s := if p.tick then tick s else s
      .next (closeClock p start ready s)

end Sys2Proof.Machine
end

