-- ==== Sys2Proof/Machine/Encoder.lean ====
section
/-! DEFINITION. The Command Encoder (`42_encoder.md`): the meanings of the eleven outbound rows. -/

namespace Sys2Proof.Machine

/-- `Encode(id, p)` (R87, R88): returns the frame and the two advisory flags; reads and writes no
register and emits no event, in every state (R89). -/
def encodeRequest (id : Byte) (p : Option Byte) (s : State) : Host.Outcome State Fault Refusal :=
  .next (s.emit (.encoded (encodeFrame id p) (known id) (formOk id p)))

/-- `LIGHT_A <b>` (R90). -/
def execLightA (p : Byte) (s : State) : Host.Outcome State Fault Refusal := encodeRequest 0x31 (some p) s

/-- `LIGHT_B <b>` (R91). -/
def execLightB (p : Byte) (s : State) : Host.Outcome State Fault Refusal := encodeRequest 0x32 (some p) s

/-- `LIGHTS_OFF` (R92). -/
def execLightsOff (s : State) : Host.Outcome State Fault Refusal := encodeRequest 0x33 none s

/-- `BEACON_ON` (R93). -/
def execBeaconOn (s : State) : Host.Outcome State Fault Refusal := encodeRequest 0x34 none s

/-- `SWITCH <b>` (R94). -/
def execSwitch (p : Byte) (s : State) : Host.Outcome State Fault Refusal := encodeRequest 0x34 (some p) s

/-- `BEACON_OFF` (R95). -/
def execBeaconOff (s : State) : Host.Outcome State Fault Refusal := encodeRequest 0x35 none s

/-- `RELEASE_SAFE` (R96). -/
def execReleaseSafe (s : State) : Host.Outcome State Fault Refusal := encodeRequest 0x37 none s

/-- `RELEASE_ARM` (R97). -/
def execReleaseArm (s : State) : Host.Outcome State Fault Refusal := encodeRequest 0x38 none s

/-- `RELEASE_FIRE` (R98). -/
def execReleaseFire (s : State) : Host.Outcome State Fault Refusal := encodeRequest 0x39 none s

/-- `CMD <id>` (R71, R99): any id, without a payload byte. -/
def execCmdShort (id : Byte) (s : State) : Host.Outcome State Fault Refusal := encodeRequest id none s

/-- `CMD <id> <b>` (R71, R99): any id, with a payload byte. -/
def execCmdLong (id p : Byte) (s : State) : Host.Outcome State Fault Refusal :=
  encodeRequest id (some p) s

end Sys2Proof.Machine
end

