-- ==== Sys2Proof/Machine/Dispatch.lean ====
section
/-! DEFINITION. One arm per row of the opcode table. -/

namespace Sys2Proof.Machine

def exec (i : Instr) (s : State) : Host.Outcome State Fault Refusal :=
  match i with
  | .lightA p => Sys2Proof.Machine.execLightA p s
  | .lightB p => Sys2Proof.Machine.execLightB p s
  | .lightsOff => Sys2Proof.Machine.execLightsOff s
  | .beaconOn => Sys2Proof.Machine.execBeaconOn s
  | .switch p => Sys2Proof.Machine.execSwitch p s
  | .beaconOff => Sys2Proof.Machine.execBeaconOff s
  | .releaseSafe => Sys2Proof.Machine.execReleaseSafe s
  | .releaseArm => Sys2Proof.Machine.execReleaseArm s
  | .releaseFire => Sys2Proof.Machine.execReleaseFire s
  | .cmdShort id => Sys2Proof.Machine.execCmdShort id s
  | .cmdLong id p => Sys2Proof.Machine.execCmdLong id p s
  | .rxFramePrimary t => Sys2Proof.Machine.execRxFramePrimary t s
  | .rxFrameLegacy t => Sys2Proof.Machine.execRxFrameLegacy t s

end Sys2Proof.Machine
end

