-- ==== Sys2Proof/Machine/Events.lean ====
section
/-! DEFINITION. What one offered item does, and the body of the step. -/

namespace Sys2Proof.Machine

/-- One input event (R17), one atomic step (R18). A caller's request is the row of the opcode table it
spells, so it runs that row's meaning. -/
def takeInput (e : Input) (s : State) : Host.Outcome State Fault Refusal :=
  match e with
  | .reset => .next (resetEvent s)
  | .rxByte b => rxByte b s
  | .tick => .next (tick s)
  | .xportResult ok => .next (xportResult ok s)
  | .encode id p => exec (requestInstr id p) s
  | .bufRead i => bufRead i s

/-- An offered frame runs the instruction its bytes decode to; bytes that spell no row, or more than
one frame, are refused by name (log 11). -/
def takeFrame (d : Direction) (bytes : List Byte) (s : State) : Host.Outcome State Fault Refusal :=
  match decode d bytes with
  | .ok i [] => exec i s
  | .ok _ (_ :: _) => .refused (.undecodable .trailing)
  | .reject r => .refused (.undecodable r)

/-- One offered item. -/
def takeItem (it : Item) (s : State) : Host.Outcome State Fault Refusal :=
  match it with
  | .event e => takeInput e s
  | .frame d bytes => takeFrame d bytes s
  | .clock p => clock p s

/-- The first offered item is taken; with nothing offered nothing happens (log 3). A configuration
outside the constraints is refused before anything runs (I9, log 2). -/
def stepPending (s : State) : Host.Outcome State Fault Refusal :=
  if s.cfg.valid then
    match s.pending with
    | [] => .next s
    | it :: rest => takeItem it { s with pending := rest }
  else .refused .badConfig

/-- A sequence of input events, one step each: a program (`95_test_vectors.md` §3). -/
def runInputs : List Input → State → Host.Outcome State Fault Refusal
  | [], s => .next s
  | e :: es, s => andThen (takeInput e s) (runInputs es)

/-- The item that offers the frame whose bits the opcode table numbers as `w`. -/
def tableItem (nbits w : Nat) : Item := .frame (tableDirection nbits) (tableFrame nbits w)

end Sys2Proof.Machine
end

