-- ==== Sys2Proof/Machine/Step.lean ====
section
/-! DEFINITION. One step of the machine, and where the step finds its next instruction. -/

namespace Sys2Proof.Machine

/-- One step (R17, R18): `step : Config -> State -> Input -> State × List Output`, with the
configuration, the next input and the outputs held in the state. -/
def step (s : State) : Host.Outcome State Fault Refusal := stepPending s

/-- `s` with the frame of a table word offered before everything else (log 7). -/
def State.withFetchWord (s : State) (nbits w : Nat) : State :=
  { s with pending := tableItem nbits w :: s.pending }

end Sys2Proof.Machine
end

