-- ==== Sys2Proof/Safety.lean ====
section
/-! DEFINITION. The invariant of the reachable states (R28, R29, R32, R33, R44, R50) and the
environment's duties (R124), the terms claims use. -/

namespace Sys2Proof.Machine

/-- R28: what `fd.state` says about `fd.size`, `fd.cnt` and `fd.chk`. -/
def Fd.PhaseOk (f : Fd) : Prop :=
  match f.state with
  | .awaitingStart => f.size = 0 ∧ f.cnt = 0 ∧ f.chk = 0
  | .awaitingSize => f.cnt = 0 ∧ f.size = 0
  | .awaitingPayload => 1 ≤ f.size.toNat ∧ f.cnt.toNat < f.size.toNat
  | .awaitingChecksum => 1 ≤ f.size.toNat ∧ f.cnt = f.size

/-- R29: the running checksum is the sum of a start byte, the size byte once it is taken, and the
payload cells stored so far, all of which are written. -/
def Fd.ChecksumOk (f : Fd) : Prop :=
  match f.state with
  | .awaitingStart => True
  | .awaitingSize => isStartMarker f.chk = true
  | .awaitingPayload | .awaitingChecksum =>
    ∃ start payload, isStartMarker start = true ∧ f.buf.readRange 0 f.cnt.toNat = some payload ∧
      f.chk = sum8 (start :: f.size :: payload)

/-- What every reachable state satisfies. -/
structure State.Inv (s : State) : Prop where
  /-- The configuration is one that is not refused (R13, R14, I9). -/
  config : s.cfg.valid = true
  /-- The buffer is in canonical form. -/
  memory : s.fd.buf.wf = true
  /-- "Cell 255 is never written" (R26, R50). -/
  lastCell : s.fd.buf.read 255 = none
  /-- R28. -/
  phase : s.fd.PhaseOk
  /-- R29. -/
  checksum : s.fd.ChecksumOk
  /-- Every cell the frame output port names is written (R27, R44). -/
  port : (s.fd.buf.readRange 0 s.fd.outLen.toNat).isSome = true
  /-- R32. -/
  divider : s.wd.checkDiv < s.cfg.checkPeriod
  /-- R33. -/
  elapsed : s.wd.elapsed ≤ s.cfg.elapsedMax

/-- Whether an input event breaks a duty of R124 in this state: a byte after a `ReconnectReq` and
before its answer, or an answer without an outstanding request. The step takes such an event all the
same (R106, R108); "a breach of a duty is outside every claim". -/
def Input.dutyOk (e : Input) (s : State) : Bool :=
  match e with
  | .rxByte _ => decide (s.wd.state = .idle)
  | .xportResult _ => decide (s.wd.state = .reconnecting)
  | .reset => true
  | .tick => true
  | .encode _ _ => true
  | .bufRead _ => true

/-- An output event of R17: `FrameOut`, `Status` or `ReconnectReq`; the values that `Encode` and
`BufRead` return and a clock's ports are none. -/
def Output.isEvent : Output → Bool
  | .frameOut _ _ _ => true
  | .status _ => true
  | .reconnectReq _ => true
  | .encoded _ _ _ => false
  | .readData _ => false
  | .ports _ => false

/-- How many `Tick`s a list of input events holds: `now` of R110, counted from its start. -/
def tickCount : List Input → Nat
  | [] => 0
  | .tick :: es => tickCount es + 1
  | _ :: es => tickCount es

/-- The two steps that clear `wd.elapsed` (R107): a byte that completes a valid frame, and a
successful answer to an outstanding request. -/
def Input.isLiveness (e : Input) (s : State) : Bool :=
  match e with
  | .rxByte b => s.rxEnable && decide (s.fd.state = .awaitingChecksum) && decide (b = s.fd.chk)
  | .xportResult ok => ok && decide (s.wd.state = .reconnecting)
  | .reset => false
  | .tick => false
  | .encode _ _ => false
  | .bufRead _ => false

/-- `last_valid_frame_time` of R110 after the events `es` from `s`, where `now` and `last` are the tick
count and its value in `s`: the tick count at the latest liveness step, `last` if there is none. -/
def lastLivenessTime : List Input → State → Nat → Nat → Nat
  | [], _, _, last => last
  | e :: es, s, now, last =>
    let now := now + tickCount [e]
    let last := if e.isLiveness s then now else last
    match takeInput e s with
    | .next t => lastLivenessTime es t now last
    | .fault _ => last
    | .refused _ => last

/-- An `Encode` event. -/
def Input.isEncode : Input → Bool
  | .encode _ _ => true
  | .reset => false
  | .rxByte _ => false
  | .tick => false
  | .xportResult _ => false
  | .bufRead _ => false

/-- The bytes that a list of input events offers, in order (R51). -/
def offeredBytes : List Input → List Byte
  | [] => []
  | .rxByte b :: es => b :: offeredBytes es
  | _ :: es => offeredBytes es

/-- "`rx_enable = 1` throughout" (R84): the events run from `s` and the gate is open at the start, between
them and at the end. A read of a cell never written ends such a run (I1, log 8). -/
def gateOpenAlong : List Input → State → Bool
  | [], s => s.rxEnable
  | e :: es, s =>
    s.rxEnable &&
      match takeInput e s with
      | .next t => gateOpenAlong es t
      | .fault _ => false
      | .refused _ => false

/-- The input events of one clock in the order it performs them (R121, R143). -/
def ClockIn.events (p : ClockIn) : List Input :=
  if p.rst then [.reset]
  else (if p.xportDone then [.xportResult p.xportOk] else []) ++
    (if p.rxValid then [.rxByte p.rxByte] else []) ++ (if p.tick then [.tick] else [])

end Sys2Proof.Machine
end

