-- ==== Sys2Proof/Certificates/Slice0/Obligations.lean ====
section
/-! DEFINITION. The statements for the provers, from the numbered rules of `spec/`. -/

open Sys2Proof Sys2Proof.Machine

/-! ### Encodings -/

/-- R63, R55: decoding the frame of a well-formed instruction gives it back, whatever follows. -/
def Obligations.DecodeOfEncode : Prop :=
  ∀ (i : Instr) (rest : List Byte), i.wf = true →
    decode i.direction (encode i ++ rest) = .ok i rest

/-- The other direction: what the decoder reads is well formed, of the direction asked for, and spelled
by the bytes read. An outbound frame's checksum byte selects no row (log 5), so there the encoder's
frame agrees up to that byte and carries the right sum in its place. -/
def Obligations.DecodedFrameReencodes : Prop :=
  ∀ (d : Direction) (bs : List Byte) (i : Instr) (rest : List Byte), decode d bs = .ok i rest →
    i.wf = true ∧ i.direction = d ∧
    (d = .inbound → bs = encode i ++ rest) ∧
    (d = .outbound → ∃ body c, bs = body ++ c :: rest ∧ encode i = body ++ [sum8 body])

/-- Eight frames written out from the worked examples of R90 to R99, R72 and DEC-2. The ninth clause is the
model's own: it takes the two bytes of a zero-size attempt (R77) for a form of an inbound row (log 15),
where R55 gives a frame a size of 1 to 255. -/
def Obligations.WrittenOutFramesDecode : Prop :=
  decode .outbound [0x61, 0x02, 0x31, 0x01, 0x95] = .ok (.lightA 1) [] ∧
  decode .outbound [0x61, 0x01, 0x34, 0x96] = .ok .beaconOn [] ∧
  decode .outbound [0x61, 0x02, 0x34, 0x00, 0x97] = .ok (.switch 0) [] ∧
  decode .outbound [0x61, 0x01, 0x39, 0x9B] = .ok .releaseFire [] ∧
  decode .outbound [0x61, 0x01, 0x36, 0x98] = .ok (.cmdShort 0x36) [] ∧
  decode .outbound [0x61, 0x02, 0x39, 0x01, 0x9D] = .ok (.cmdLong 0x39 1) [] ∧
  decode .inbound [0x62, 0x02, 0x10, 0x20, 0x94] =
    .ok (.rxFramePrimary (.sized [0x10, 0x20] 0x94)) [] ∧
  decode .inbound [0x61, 0x01, 0x41, 0xA3] = .ok (.rxFrameLegacy (.sized [0x41] 0xA3)) [] ∧
  decode .inbound [0x62, 0x00] = .ok (.rxFramePrimary .zeroSize) []

/-- R61, R62: the outbound frame, byte by byte. -/
def Obligations.OutboundFrameFormat : Prop :=
  ∀ id : Byte,
    encodeFrame id none = [0x61, 1, id, sum8 [0x61, 1, id]] ∧
    ∀ p : Byte, encodeFrame id (some p) = [0x61, 2, id, p, sum8 [0x61, 2, id, p]]

/-- R56: a frame has `size + 3` bytes: 4 or 5 outbound, 4 to 258 inbound. -/
def Obligations.FrameLengths : Prop :=
  (∀ i : Instr, i.direction = .outbound →
    ((encode i)[1]? = some 1 ∧ (encode i).length = 4) ∨
      ((encode i)[1]? = some 2 ∧ (encode i).length = 5)) ∧
  (∀ (i : Instr) (payload : List Byte) (c : Byte),
    i = .rxFramePrimary (.sized payload c) ∨ i = .rxFrameLegacy (.sized payload c) → i.wf = true →
      (∃ size : Byte, (encode i)[1]? = some size ∧ size.toNat = payload.length) ∧
      (encode i).length = payload.length + 3 ∧
      4 ≤ (encode i).length ∧ (encode i).length ≤ 258) ∧
  (∃ i : Instr, i.wf = true ∧ i.direction = .inbound ∧ (encode i).length = 258)

/-- R66, R88: the advisory flags, what `Encode` returns with the frame; no request is refused, and the frame
is the one of R61 whatever they are. -/
def Obligations.AdvisoryFlags : Prop :=
  ∀ id : Byte,
    (∀ (p : Option Byte) (s : State), takeInput (.encode id p) s =
      .next { s with outs := s.outs ++ [.encoded (encodeFrame id p) (known id) (formOk id p)] }) ∧
    (known id = true ↔ id = 0x31 ∨ id = 0x32 ∨ id = 0x33 ∨ id = 0x34 ∨ id = 0x35 ∨ id = 0x37 ∨
      id = 0x38 ∨ id = 0x39) ∧
    (formOk id none = true ↔ id = 0x33 ∨ id = 0x34 ∨ id = 0x35 ∨ id = 0x37 ∨ id = 0x38 ∨ id = 0x39) ∧
    ∀ v : Byte, (formOk id (some v) = true ↔ id = 0x31 ∨ id = 0x32 ∨ id = 0x34)

/-! ### The step -/

/-- With a configuration that is not refused, a step takes the first offered item and keeps the others;
with nothing offered it changes nothing (log 3). -/
def Obligations.StepTakesFirstItem : Prop :=
  ∀ s : State, s.cfg.valid = true →
    (s.pending = [] → step s = .next s) ∧
    (∀ e rest, s.pending = .event e :: rest → step s = takeInput e { s with pending := rest }) ∧
    (∀ p rest, s.pending = .clock p :: rest → step s = clock p { s with pending := rest })

/-- A step runs the decoded instruction: when the offered frame decodes to `i`, the step is `exec i` at
the state from which the frame is taken away. A caller's request runs the row it spells. That input
waits in a list (log 3) and that a frame is offered whole and runs in one step (log 4) are the model's
choices: R17 has no event for a frame, and R18 makes each of its bytes a step. -/
def Obligations.StepRunsDecodedInstruction : Prop :=
  ∀ (s : State) (rest : List Item), s.cfg.valid = true →
    (∀ d bytes i, s.pending = .frame d bytes :: rest → decode d bytes = .ok i [] →
      step s = exec i { s with pending := rest }) ∧
    (∀ id p i, s.pending = .event (.encode id p) :: rest →
      decode .outbound (encodeFrame id p) = .ok i [] → step s = exec i { s with pending := rest })

/-- `withFetchWord` offers exactly the instruction that `decodeTableWord` reads. -/
def Obligations.FetchWordRunsDecodedInstruction : Prop :=
  ∀ (s : State) (nbits w : Nat) (i : Instr), s.cfg.valid = true →
    decodeTableWord nbits w = some i → step (s.withFetchWord nbits w) = exec i s

/-- A configuration outside the constraints of R13 and R14 is refused before anything runs (I9). -/
def Obligations.BadConfigurationRefused : Prop :=
  ∀ s : State,
    (s.cfg.valid = true ↔ 1 ≤ s.cfg.checkPeriod ∧ s.cfg.stallThreshold < 2 ^ s.cfg.elapsedW - 1) ∧
    (s.cfg.valid = false → step s = .refused .badConfig)

/-- R36: the configuration cannot change while the block runs. -/
def Obligations.ConfigurationNeverChanges : Prop :=
  ∀ s t : State, step s = .next t → t.cfg = s.cfg

/-! ### The encoder -/

/-- R90 to R98: each listed command returns its frame with both flags set, in every state, and changes
nothing else; the other form of its id is the wrong form, but for '4', which has both (R64). -/
def Obligations.ListedCommandsReturnFrames : Prop :=
  ∀ (s : State) (b : Byte),
    exec (.lightA b) s =
      .next { s with outs := s.outs ++ [.encoded [0x61, 0x02, 0x31, b, 0x94 + b] true true] } ∧
    exec (.lightB b) s =
      .next { s with outs := s.outs ++ [.encoded [0x61, 0x02, 0x32, b, 0x95 + b] true true] } ∧
    exec .lightsOff s =
      .next { s with outs := s.outs ++ [.encoded [0x61, 0x01, 0x33, 0x95] true true] } ∧
    exec .beaconOn s =
      .next { s with outs := s.outs ++ [.encoded [0x61, 0x01, 0x34, 0x96] true true] } ∧
    exec (.switch b) s =
      .next { s with outs := s.outs ++ [.encoded [0x61, 0x02, 0x34, b, 0x97 + b] true true] } ∧
    exec .beaconOff s =
      .next { s with outs := s.outs ++ [.encoded [0x61, 0x01, 0x35, 0x97] true true] } ∧
    exec .releaseSafe s =
      .next { s with outs := s.outs ++ [.encoded [0x61, 0x01, 0x37, 0x99] true true] } ∧
    exec .releaseArm s =
      .next { s with outs := s.outs ++ [.encoded [0x61, 0x01, 0x38, 0x9A] true true] } ∧
    exec .releaseFire s =
      .next { s with outs := s.outs ++ [.encoded [0x61, 0x01, 0x39, 0x9B] true true] } ∧
    formOk 0x31 none = false ∧ formOk 0x32 none = false ∧ formOk 0x33 (some b) = false ∧
    formOk 0x35 (some b) = false ∧ formOk 0x37 (some b) = false ∧ formOk 0x38 (some b) = false ∧
    formOk 0x39 (some b) = false ∧
    takeInput (.encode 0x39 (some 1)) s =
      .next { s with outs := s.outs ++ [.encoded [0x61, 0x02, 0x39, 0x01, 0x9D] true false] }

/-- R99: the raw forms are encoded like any other, whatever the id, with the flags of R66. -/
def Obligations.RawCommandsReturnFrames : Prop :=
  ∀ (s : State) (id p : Byte),
    exec (.cmdShort id) s =
      .next { s with
        outs := s.outs ++ [.encoded [0x61, 0x01, id, 0x62 + id] (known id) (formOk id none)] } ∧
    exec (.cmdLong id p) s =
      .next { s with
        outs := s.outs ++ [.encoded [0x61, 0x02, id, p, 0x63 + id + p] (known id)
          (formOk id (some p))] }

/-- R87, R88: `Encode` is total over every id and payload, in every state, whichever row the request
spells: the frame is the body and its sum, the flags change nothing in it, no register is written. -/
def Obligations.EncodeIsTotalAndStateless : Prop :=
  ∀ (s : State) (id : Byte) (p : Option Byte),
    let size : Byte := if p = none then 1 else 2
    let body : List Byte := [0x61, size, id] ++ p.toList
    takeInput (.encode id p) s =
      .next { s with outs := s.outs ++ [.encoded (body ++ [sum8 body]) (known id) (formOk id p)] } ∧
    (body ++ [sum8 body]).length = 3 + size.toNat

/-- R38, R89, R141: requests to the encoder change nothing of what the rest of the block does: leaving
them all out of a program gives the same registers and the same events. -/
def Obligations.EncodeRequestsDoNotInterfere : Prop :=
  ∀ (es : List Input) (s t : State), runInputs es s = .next t →
    ∃ u, runInputs (es.filter fun e => !e.isEncode) s = .next u ∧ u.fd = t.fd ∧ u.wd = t.wd ∧
      u.outs.filter Output.isEvent = t.outs.filter Output.isEvent

/-! ### The decoder -/

/-- R75: a start marker while idle, either of the two. -/
def Obligations.StartMarkerOpensAttempt : Prop :=
  ∀ (s : State) (b : Byte), s.rxEnable = true → s.fd.state = .awaitingStart →
    (b = 0x62 ∨ b = 0x61) →
    takeInput (.rxByte b) s =
      .next { s with fd := { s.fd with chk := b, cnt := 0, state := .awaitingSize } }

/-- R76: any other byte while idle. -/
def Obligations.NoiseByteIgnored : Prop :=
  ∀ (s : State) (b : Byte), s.rxEnable = true → s.fd.state = .awaitingStart →
    b ≠ 0x62 → b ≠ 0x61 → takeInput (.rxByte b) s = .next s

/-- R77: a zero size is reported and ends the attempt. -/
def Obligations.ZeroSizeReportedAndRestarts : Prop :=
  ∀ s : State, s.rxEnable = true → s.fd.state = .awaitingSize →
    takeInput (.rxByte 0) s =
      .next { s with
        fd := { s.fd with state := .awaitingStart, size := 0, cnt := 0, chk := 0 }
        outs := s.outs ++ [.status .zeroSize] }

/-- R78: a size of 1 to 255, start-marker values included. -/
def Obligations.SizeByteRecorded : Prop :=
  ∀ (s : State) (b : Byte), s.rxEnable = true → s.fd.state = .awaitingSize → b ≠ 0 →
    takeInput (.rxByte b) s =
      .next { s with fd := { s.fd with size := b, chk := s.fd.chk + b, state := .awaitingPayload } }

/-- R79: a payload byte is stored at `fd.cnt`, and no other cell changes. -/
def Obligations.PayloadByteStored : Prop :=
  ∀ (s : State) (b : Byte), s.rxEnable = true → s.fd.state = .awaitingPayload →
    ∃ m : Memory,
      takeInput (.rxByte b) s =
        .next { s with
          fd := { s.fd with
            buf := m
            chk := s.fd.chk + b
            cnt := s.fd.cnt + 1
            state := if s.fd.cnt + 1 = s.fd.size then .awaitingChecksum else .awaitingPayload } } ∧
      m.read s.fd.cnt.toNat = some b ∧
      ∀ k, k ≠ s.fd.cnt.toNat → m.read k = s.fd.buf.read k

/-- R80: a matching checksum byte emits the frame, latches it and counts as liveness. The payload is the
`fd.size` cells from 0 on, all written (in every state that keeps the invariant). -/
def Obligations.MatchingChecksumEmitsFrame : Prop :=
  ∀ (s : State) (b : Byte) (payload : List Byte), s.rxEnable = true →
    s.fd.state = .awaitingChecksum → b = s.fd.chk →
    payload.length = s.fd.size.toNat →
    (∀ k (h : k < payload.length), s.fd.buf.read k = some payload[k]) →
    takeInput (.rxByte b) s =
      .next { s with
        fd := { s.fd with
          state := .awaitingStart, size := 0, cnt := 0, chk := 0, outLen := s.fd.size, outChk := b }
        wd := { s.wd with elapsed := 0 }
        outs := s.outs ++ [.frameOut payload b true] }

/-- R81: a mismatch reports both values and drops the frame. -/
def Obligations.MismatchDropsFrame : Prop :=
  ∀ (s : State) (b : Byte), s.rxEnable = true → s.fd.state = .awaitingChecksum → b ≠ s.fd.chk →
    takeInput (.rxByte b) s =
      .next { s with
        fd := { s.fd with state := .awaitingStart, size := 0, cnt := 0, chk := 0 }
        outs := s.outs ++ [.status (.checksumMismatch b s.fd.chk)] }

/-- R34, R108: the byte gate, what it drops, what opens it and what closes it. -/
def Obligations.ByteGate : Prop :=
  ∀ s : State,
    (s.rxEnable = true ↔ s.wd.state = .idle ∧ s.wd.linkDown = false) ∧
    (s.rxEnable = false → ∀ bs : List Byte, rxBytes bs s = .next s) ∧
    (s.rxEnable = false → ∀ t : RxTail,
      exec (.rxFramePrimary t) s = .next s ∧ exec (.rxFrameLegacy t) s = .next s) ∧
    (∀ e u, takeInput e s = .next u → s.rxEnable = false → u.rxEnable = true →
      e = .xportResult true ∧ s.wd.state = .reconnecting) ∧
    (∀ e u, takeInput e s = .next u → s.rxEnable = true → u.rxEnable = false →
      e = .reset ∨ ∃ added, u.outs = s.outs ++ added ∧ .reconnectReq true ∈ added) ∧
    (∀ u added r, takeInput .tick s = .next u → u.outs = s.outs ++ added →
      .reconnectReq r ∈ added → u.rxEnable = false) ∧
    (resetEvent s).rxEnable = false

/-- A whole frame from idle, its bytes back to back in one step (the model's choice, log 4;
`FrameAmongOtherEvents` is R84 with other events between the bytes). Byte by byte nothing is emitted before its last byte; with the right
checksum exactly one `FrameOut` comes with the payload, which stands in the cells from 0 on; with any
other checksum exactly one `ChecksumMismatch`. Both start bytes do the same, each with its own sum. -/
def Obligations.WholeFrameFromIdle : Prop :=
  ∀ (s : State) (i : Instr) (start c : Byte) (payload : List Byte),
    (start = 0x62 ∧ i = .rxFramePrimary (.sized payload c) ∨
      start = 0x61 ∧ i = .rxFrameLegacy (.sized payload c)) →
    s.rxEnable = true → s.fd.state = .awaitingStart → 1 ≤ payload.length → payload.length ≤ 255 →
    let size := BitVec.ofNat 8 payload.length
    let sum := sum8 (start :: size :: payload)
    (∀ n, n < (encode i).length → ∃ u, rxBytes ((encode i).take n) s = .next u ∧ u.outs = s.outs) ∧
    ∃ m : Memory,
      (∀ k (h : k < payload.length), m.read k = some payload[k]) ∧
      (∀ k, payload.length ≤ k → m.read k = s.fd.buf.read k) ∧
      exec i s = .next (
        if c = sum then
          { s with
            fd := { s.fd with
              state := .awaitingStart, size := 0, cnt := 0, chk := 0, buf := m
              outLen := size, outChk := c }
            wd := { s.wd with elapsed := 0 }
            outs := s.outs ++ [.frameOut payload c true] }
        else
          { s with
            fd := { s.fd with state := .awaitingStart, size := 0, cnt := 0, chk := 0, buf := m }
            outs := s.outs ++ [.status (.checksumMismatch c sum)] })

/-- For every list of input events that offers the bytes of a frame but its last, from idle and with the gate
open throughout, the other events being ticks, requests, reads and unasked answers (R84): no event
comes before the last byte, and the elapsed time is as the ticks made it; then the last byte emits
exactly one `FrameOut` if it is the sum, and exactly one `ChecksumMismatch` otherwise. -/
def Obligations.FrameAmongOtherEvents : Prop :=
  ∀ (s : State) (es : List Input) (start c : Byte) (payload : List Byte),
    start = 0x62 ∨ start = 0x61 → 1 ≤ payload.length → payload.length ≤ 255 →
    s.fd.state = .awaitingStart → s.wd.elapsed ≤ 2 ^ s.cfg.elapsedW - 1 →
    offeredBytes es = start :: BitVec.ofNat 8 payload.length :: payload →
    gateOpenAlong es s = true →
    let size := BitVec.ofNat 8 payload.length
    let sum := sum8 (start :: size :: payload)
    ∃ (u : State) (quiet : List Output),
      runInputs es s = .next u ∧ u.outs = s.outs ++ quiet ∧ (∀ o ∈ quiet, Output.isEvent o = false) ∧
      u.wd.elapsed = min (s.wd.elapsed + tickCount es) (2 ^ s.cfg.elapsedW - 1) ∧
      u.fd.outLen = s.fd.outLen ∧ u.fd.outChk = s.fd.outChk ∧
      (∀ k (h : k < payload.length), u.fd.buf.read k = some payload[k]) ∧
      (∀ k, payload.length ≤ k → u.fd.buf.read k = s.fd.buf.read k) ∧
      takeInput (.rxByte c) u = .next (
        if c = sum then
          { u with
            fd := { u.fd with
              state := .awaitingStart, size := 0, cnt := 0, chk := 0, outLen := size, outChk := c }
            wd := { u.wd with elapsed := 0 }
            outs := u.outs ++ [.frameOut payload c true] }
        else
          { u with
            fd := { u.fd with state := .awaitingStart, size := 0, cnt := 0, chk := 0 }
            outs := u.outs ++ [.status (.checksumMismatch c sum)] })

/-- R77 for the two rows: from idle the attempt ends at its size byte; the buffer, the latches and the
watchdog stay. -/
def Obligations.ZeroSizeFrameFromIdle : Prop :=
  ∀ (s : State) (i : Instr), i = .rxFramePrimary .zeroSize ∨ i = .rxFrameLegacy .zeroSize →
    s.rxEnable = true → s.fd.state = .awaitingStart →
    exec i s = .next { s with
      fd := { s.fd with state := .awaitingStart, size := 0, cnt := 0, chk := 0 }
      outs := s.outs ++ [.status .zeroSize] }

/-- An inbound row is its bytes, one `RxByte` step each: running the machine over the queued byte events
gives what the row's meaning gives, in every state (log 4). -/
def Obligations.InboundRowIsItsByteSteps : Prop :=
  ∀ (i : Instr) (s : State) (rest : List Item), i.direction = .inbound → s.cfg.valid = true →
    s.pending = (encode i).map (fun b => Item.event (.rxByte b)) ++ rest →
    Host.Core.run Sys2Proof.core (encode i).length s = exec i { s with pending := rest }

/-- The inbound rows complete in every state that keeps the invariant, mid-frame ones included, and their
frame: the only cells that can change are those a payload byte of the row is stored to (the count in the
state its byte is taken in); the latches and the elapsed time change only with an emitted frame. -/
def Obligations.InboundRowsComplete : Prop :=
  ∀ (s : State) (t : RxTail) (i : Instr), s.Inv → i = .rxFramePrimary t ∨ i = .rxFrameLegacy t →
    ∃ u added, exec i s = .next u ∧ u.outs = s.outs ++ added ∧
      u.cfg = s.cfg ∧ u.pending = s.pending ∧ u.freeCount = s.freeCount ∧
      (∀ k, u.fd.buf.read k = s.fd.buf.read k ∨
        ∃ n v, n < (encode i).length ∧ rxBytes ((encode i).take n) s = .next v ∧
          v.fd.state = .awaitingPayload ∧ k = v.fd.cnt.toNat) ∧
      ((u.wd = s.wd ∧ u.fd.outLen = s.fd.outLen ∧ u.fd.outChk = s.fd.outChk ∧
          ∀ p c v, .frameOut p c v ∉ added) ∨
        (u.wd = { s.wd with elapsed := 0 } ∧ ∃ p c, .frameOut p c true ∈ added))

/-- R85: a run of noise while idle changes nothing, so the next frame decodes as without it. -/
def Obligations.NoiseRunChangesNothing : Prop :=
  ∀ (noise bytes : List Byte) (s : State), s.fd.state = .awaitingStart →
    (∀ b ∈ noise, b ≠ 0x61 ∧ b ≠ 0x62) → rxBytes (noise ++ bytes) s = rxBytes bytes s

/-- R83: a start marker is recognised only in `AwaitingStart`. -/
def Obligations.MarkerOnlyWhileIdle : Prop :=
  ∀ (e : Input) (s t : State), takeInput e s = .next t → t.fd.state = .awaitingSize →
    s.fd.state = .awaitingSize ∨
      s.fd.state = .awaitingStart ∧ s.rxEnable = true ∧ (e = .rxByte 0x61 ∨ e = .rxByte 0x62)

/-- R137, R139: an attempt ends within a bounded number of accepted bytes, whatever they are: 257 from
`AwaitingSize`, `fd.size - fd.cnt + 1` from the other two states. -/
def Obligations.AttemptEndsWithinBound : Prop :=
  ∀ (s : State) (bytes : List Byte), s.Inv → s.rxEnable = true →
    let bound := match s.fd.state with
      | .awaitingStart => 0
      | .awaitingSize => 257
      | .awaitingPayload => s.fd.size.toNat - s.fd.cnt.toNat + 1
      | .awaitingChecksum => 1
    bytes.length = bound →
    ∃ n, n ≤ bound ∧ ∃ t, rxBytes (bytes.take n) s = .next t ∧ t.fd.state = .awaitingStart

/-- R136: after a frame, cell `k` stands until the `(k + 3)`-th accepted byte at the earliest. -/
def Obligations.FrameCellsStandForTheirWindow : Prop :=
  ∀ (s t : State) (k : Nat) (bytes : List Byte), s.fd.state = .awaitingStart →
    bytes.length < k + 3 → rxBytes bytes s = .next t → t.fd.buf.read k = s.fd.buf.read k

/-- R27: the output latches are written by an emitted frame and by `Reset`, by nothing else. -/
def Obligations.LatchesHoldUntilNextFrame : Prop :=
  ∀ (e : Input) (s t : State), takeInput e s = .next t → e ≠ .reset →
    (t.fd.outLen = s.fd.outLen ∧ t.fd.outChk = s.fd.outChk ∧
        ∀ p c v, t.outs ≠ s.outs ++ [.frameOut p c v]) ∨
      ∃ payload, t.outs = s.outs ++ [.frameOut payload t.fd.outChk true] ∧
        t.fd.outLen = s.fd.size ∧ payload.length = t.fd.outLen.toNat

/-- The loopback of `95_test_vectors.md` §2.2: a frame the encoder builds, fed to an idle decoder, comes
out as one `FrameOut` of its id and payload byte. -/
def Obligations.EncodedFramesLoopBack : Prop :=
  ∀ (s : State) (id : Byte) (p : Option Byte), s.rxEnable = true → s.fd.state = .awaitingStart →
    ∃ t c, rxBytes (encodeFrame id p) s = .next t ∧ (encodeFrame id p).getLast? = some c ∧
      t.outs = s.outs ++ [.frameOut (id :: p.toList) c true]

/-! ### The payload buffer and the read port -/

/-- R42, R44: a read returns the cell and changes nothing; a cell never written faults, the treatment of I1
(log 8). -/
def Obligations.BufferRead : Prop :=
  ∀ (s : State) (i : Byte),
    (∀ v, s.fd.buf.read i.toNat = some v →
      takeInput (.bufRead i) s = .next { s with outs := s.outs ++ [.readData v] }) ∧
    (s.fd.buf.read i.toNat = none → takeInput (.bufRead i) s = .fault .unwrittenCell)

/-- R43: only a payload byte writes the buffer, and only the cell `fd.cnt`. -/
def Obligations.OnlyPayloadBytesWriteBuffer : Prop :=
  ∀ (e : Input) (s t : State) (k : Nat), takeInput e s = .next t →
    t.fd.buf.read k = s.fd.buf.read k ∨
      ∃ b, e = .rxByte b ∧ s.rxEnable = true ∧ s.fd.state = .awaitingPayload ∧
        k = s.fd.cnt.toNat ∧ t.fd.buf.read k = some b

/-- R27, R44: the cells the output port names can be read. -/
def Obligations.PortCellsAreReadable : Prop :=
  ∀ (s : State) (i : Byte), s.Inv → i.toNat < s.fd.outLen.toNat →
    ∃ v, takeInput (.bufRead i) s = .next { s with outs := s.outs ++ [.readData v] }

/-! ### The watchdog -/

/-- R100, R101, R102: one tick. The elapsed time counts up and saturates; every `CHECK_PERIOD`-th tick
checks the incremented value: nothing while `RECONNECTING`, a request without release when there is no
link, a `Stall` and a request with release when the threshold is exceeded (strictly), else nothing. -/
def Obligations.TickCountsAndChecks : Prop :=
  ∀ s : State,
    let now := if s.wd.elapsed = 2 ^ s.cfg.elapsedW - 1 then s.wd.elapsed else s.wd.elapsed + 1
    (s.wd.checkDiv + 1 ≠ s.cfg.checkPeriod →
      takeInput .tick s =
        .next { s with wd := { s.wd with elapsed := now, checkDiv := s.wd.checkDiv + 1 } }) ∧
    (s.wd.checkDiv + 1 = s.cfg.checkPeriod → s.wd.state = .reconnecting →
      takeInput .tick s = .next { s with wd := { s.wd with elapsed := now, checkDiv := 0 } }) ∧
    (s.wd.checkDiv + 1 = s.cfg.checkPeriod → s.wd.state = .idle → s.wd.linkDown = true →
      takeInput .tick s =
        .next { s with
          wd := { s.wd with elapsed := now, checkDiv := 0, state := .reconnecting }
          outs := s.outs ++ [.reconnectReq false] }) ∧
    (s.wd.checkDiv + 1 = s.cfg.checkPeriod → s.wd.state = .idle → s.wd.linkDown = false →
      now ≤ s.cfg.stallThreshold →
      takeInput .tick s = .next { s with wd := { s.wd with elapsed := now, checkDiv := 0 } }) ∧
    (s.wd.checkDiv + 1 = s.cfg.checkPeriod → s.wd.state = .idle → s.wd.linkDown = false →
      s.cfg.stallThreshold < now →
      takeInput .tick s =
        .next { s with
          wd := { s.wd with elapsed := now, checkDiv := 0, state := .reconnecting }
          outs := s.outs ++ [.status (.stall now), .reconnectReq true] })

/-- R104, R105, R106: the transport's answer. -/
def Obligations.TransportAnswers : Prop :=
  ∀ s : State,
    (s.wd.state = .reconnecting → takeInput (.xportResult true) s =
      .next { s with wd := { s.wd with elapsed := 0, linkDown := false, state := .idle } }) ∧
    (s.wd.state = .reconnecting → takeInput (.xportResult false) s =
      .next { s with
        wd := { s.wd with linkDown := true, state := .idle }
        outs := s.outs ++ [.status .acquireFail] }) ∧
    (s.wd.state = .idle → ∀ ok, takeInput (.xportResult ok) s = .next s)

/-- R107: a byte that completes a valid frame and a successful reacquisition clear the elapsed time; no
other event but `Reset` lowers it. -/
def Obligations.OnlyLivenessClearsElapsed : Prop :=
  ∀ (e : Input) (s t : State), e ≠ .reset → takeInput e s = .next t →
    (e.isLiveness s = true → t.wd.elapsed = 0) ∧
    (e.isLiveness s = false → s.wd.elapsed ≤ t.wd.elapsed)

/-- R110: the elapsed counter is the number of ticks since the latest liveness step, as long as it has
not saturated. -/
def Obligations.ElapsedIsTimeSinceLiveness : Prop :=
  ∀ (es : List Input) (s t : State), .reset ∉ es → s.wd.elapsed = 0 → runInputs es s = .next t →
    t.wd.elapsed = min (tickCount es - lastLivenessTime es s 0 0) (2 ^ s.cfg.elapsedW - 1)

/-- R109 and its converse: the watchdog writes no decoder register, the decoder none of the watchdog's
but the elapsed time, the encoder and the read port none at all. -/
def Obligations.UnitsWriteTheirOwnRegisters : Prop :=
  ∀ (s t : State),
    (takeInput .tick s = .next t → t.fd = s.fd) ∧
    (∀ ok, takeInput (.xportResult ok) s = .next t → t.fd = s.fd) ∧
    (∀ b, takeInput (.rxByte b) s = .next t → t.wd = { s.wd with elapsed := t.wd.elapsed }) ∧
    (∀ id p, takeInput (.encode id p) s = .next t → t.fd = s.fd ∧ t.wd = s.wd) ∧
    (∀ i, takeInput (.bufRead i) s = .next t → t.fd = s.fd ∧ t.wd = s.wd)

/-- R111, R142: after an answer, the first request comes exactly at the `m`-th tick, whatever other events
come between as long as no valid frame is among them: after a success `m` is the first check tick past
the threshold, between `STALL_THRESHOLD + 1` and `STALL_THRESHOLD + CHECK_PERIOD` ticks later; after a
failure it is the next check tick. The answer does not move the cadence. -/
def Obligations.ReconnectSpacing : Prop :=
  ∀ (s : State) (ok : Bool), s.cfg.valid = true → s.wd.state = .reconnecting →
    s.wd.checkDiv < s.cfg.checkPeriod → s.wd.elapsed ≤ 2 ^ s.cfg.elapsedW - 1 →
    let least := if ok then s.cfg.stallThreshold + 1 else 1
    ∃ m u, least ≤ m ∧ m + 1 ≤ least + s.cfg.checkPeriod ∧
      (s.wd.checkDiv + m) % s.cfg.checkPeriod = 0 ∧
      (∀ k, least ≤ k → k < m → (s.wd.checkDiv + k) % s.cfg.checkPeriod ≠ 0) ∧
      takeInput (.xportResult ok) s = .next u ∧
      ∀ (es : List Input) (t : State) (added : List Output), .reset ∉ es →
        (∀ r, .xportResult r ∉ es) → runInputs es u = .next t → t.outs = u.outs ++ added →
        (∀ p c v, .frameOut p c v ∉ added) →
        ((∃ r, .reconnectReq r ∈ added) ↔ m ≤ tickCount es)

/-- R112: while a request is outstanding, no program without an answer or a reset brings another
request, nor any other event, nor an end of the wait. -/
def Obligations.OneReconnectInFlight : Prop :=
  ∀ (es : List Input) (s t : State), s.wd.state = .reconnecting →
    (∀ e ∈ es, e ≠ .reset ∧ ∀ ok, e ≠ .xportResult ok) → runInputs es s = .next t →
    t.wd.state = .reconnecting ∧ ∃ added, t.outs = s.outs ++ added ∧
      ∀ o ∈ added, Output.isEvent o = false

/-- R123, R100, R101: only a check, on every `CHECK_PERIOD`-th tick, from `IDLE`, asks the transport for anything; it releases a
handle exactly when there is one. -/
def Obligations.OnlyChecksRequestReconnect : Prop :=
  ∀ (e : Input) (s t : State) (added : List Output) (r : Bool), takeInput e s = .next t →
    t.outs = s.outs ++ added → .reconnectReq r ∈ added →
    e = .tick ∧ s.wd.checkDiv + 1 = s.cfg.checkPeriod ∧ s.wd.state = .idle ∧
      t.wd.state = .reconnecting ∧ r = !s.wd.linkDown ∧
      (s.wd.linkDown = false → s.cfg.stallThreshold < t.wd.elapsed)

/-- R134: the boot. From the watchdog's reset values no event comes before the `CHECK_PERIOD`-th tick and
the gate stays closed; that tick requests an acquisition; success opens the gate with the elapsed time
0, failure is reported and the next check asks again. -/
def Obligations.BootSequence : Prop :=
  ∀ s : State, s.cfg.valid = true → s.wd = Wd.reset →
    (∀ k, k < s.cfg.checkPeriod → ∃ t, runInputs (List.replicate k .tick) s = .next t ∧
      t.outs = s.outs ∧ t.rxEnable = false) ∧
    ∃ u, runInputs (List.replicate s.cfg.checkPeriod .tick) s = .next u ∧
      u.outs = s.outs ++ [.reconnectReq false] ∧ u.wd.state = .reconnecting ∧ u.fd = s.fd ∧
      (∃ v, takeInput (.xportResult true) u = .next v ∧ v.rxEnable = true ∧ v.wd.elapsed = 0 ∧
        v.fd = s.fd) ∧
      (∃ v, takeInput (.xportResult false) u = .next v ∧ v.rxEnable = false ∧
        v.outs = s.outs ++ [.reconnectReq false, .status .acquireFail] ∧
        ∃ w, runInputs (List.replicate s.cfg.checkPeriod .tick) v = .next w ∧
          w.wd.state = .reconnecting ∧
          w.outs = s.outs ++ [.reconnectReq false, .status .acquireFail, .reconnectReq false])

/-! ### Conditions and events -/

/-- R114: the codes and severities of the status events. -/
def Obligations.StatusCodes : Prop :=
  (Status.zeroSize.code = 1 ∧ Status.zeroSize.severity = .error) ∧
  (∀ r c, (Status.checksumMismatch r c).code = 2 ∧ (Status.checksumMismatch r c).severity = .error) ∧
  (∀ e, (Status.stall e).code = 3 ∧ (Status.stall e).severity = .warning) ∧
  (Status.acquireFail.code = 4 ∧ Status.acquireFail.severity = .error)

/-- R120: the events one step can emit. -/
def Obligations.EventsOfOneStep : Prop :=
  ∀ (e : Input) (s t : State), takeInput e s = .next t →
    ∃ added, t.outs = s.outs ++ added ∧
      match e with
      | .rxByte _ => added = [] ∨ (∃ p c, added = [.frameOut p c true]) ∨
          added = [.status .zeroSize] ∨ ∃ r c, added = [.status (.checksumMismatch r c)]
      | .tick => added = [] ∨ (∃ r, added = [.reconnectReq r]) ∨
          ∃ n r, added = [.status (.stall n), .reconnectReq r]
      | .xportResult _ => added = [] ∨ added = [.status .acquireFail]
      | .encode _ _ => added.filter Output.isEvent = []
      | .bufRead _ => added.filter Output.isEvent = []
      | .reset => added = []

/-- R130: nothing is fatal: in every state that keeps the invariant every input event, every row of the
opcode table and every clock completes, but for the read of a cell never written (I1). -/
def Obligations.NothingIsFatal : Prop :=
  ∀ s : State, s.Inv →
    (∀ e : Input, (∀ i, e = .bufRead i → (s.fd.buf.read i.toNat).isSome = true) →
      ∃ t, takeInput e s = .next t) ∧
    (∀ i : Instr, ∃ t, exec i s = .next t) ∧
    ∀ p : ClockIn, ∃ t, clock p s = .next t

/-! ### Reset and the invariant -/

/-- R131, R132: `Reset`, at any time: every register at its reset value, the buffer as it was, no
event. -/
def Obligations.ResetEvent : Prop :=
  ∀ s : State, takeInput .reset s =
    .next { s with
      fd := { state := .awaitingStart, size := 0, cnt := 0, chk := 0, buf := s.fd.buf,
              outLen := 0, outChk := 0 }
      wd := { state := .idle, linkDown := true, checkDiv := 0, elapsed := 0 } }

/-- R39: the complete state after power-on reset. -/
def Obligations.ResetState : Prop :=
  State.reset.fd.state = .awaitingStart ∧ State.reset.fd.size = 0 ∧ State.reset.fd.cnt = 0 ∧
  State.reset.fd.chk = 0 ∧ (∀ k, State.reset.fd.buf.read k = none) ∧ State.reset.fd.outLen = 0 ∧
  State.reset.fd.outChk = 0 ∧ State.reset.wd.state = .idle ∧ State.reset.wd.linkDown = true ∧
  State.reset.wd.checkDiv = 0 ∧ State.reset.wd.elapsed = 0

/-- The invariant holds after reset, for every configuration that is not refused. -/
def Obligations.InvariantAtReset : Prop :=
  ∀ cfg : Config, cfg.valid = true → { State.reset with cfg := cfg }.Inv

/-- R28, R29, R32, R33, R50: every step keeps the invariant, whatever item it takes. -/
def Obligations.StepKeepsInvariant : Prop :=
  ∀ s t : State, s.Inv → step s = .next t → t.Inv

/-! ### The circuit form -/

/-- R121, R143: one clock is `Reset` alone, or the events present in the order `XportResult`, `RxByte`,
`Tick`, each one step; its ports follow its events in the outputs. -/
def Obligations.ClockIsItsEventsInOrder : Prop :=
  ∀ (p : ClockIn) (s u : State), runInputs p.events { s with outs := [] } = .next u →
    ∃ o, clock p s = .next { u with
      outs := s.outs ++ u.outs ++ [.ports o], freeCount := s.freeCount + 1 }

/-- R143: what the output ports of a clock carry; the decoder's and the watchdog's status ports are up each
exactly with a status of its own unit, and both can be up in one clock. `rx_ready` is sampled where the
byte is offered and `out_len`, `out_chk` at the clock's end (log 10), and a code port without a status
is 0 (log 17): the model's choices. -/
def Obligations.ClockPorts : Prop :=
  ∀ (p : ClockIn) (s u t : State) (o : ClockOut),
    runInputs p.events { s with outs := [] } = .next u → clock p s = .next t →
    t.outs = s.outs ++ u.outs ++ [.ports o] →
    (o.frameValid = true ↔ ∃ pl c v, .frameOut pl c v ∈ u.outs) ∧
    (o.reconnectReq = true ↔ ∃ r, .reconnectReq r ∈ u.outs) ∧
    (∀ r, .reconnectReq r ∈ u.outs → o.reconnectRelease = r) ∧
    (o.fdStatusValid = true ↔ .status .zeroSize ∈ u.outs ∨
      ∃ r c, .status (.checksumMismatch r c) ∈ u.outs) ∧
    (o.wdStatusValid = true ↔ .status .acquireFail ∈ u.outs ∨ ∃ n, .status (.stall n) ∈ u.outs) ∧
    (.status .zeroSize ∈ u.outs → o.fdStatusCode = 1) ∧
    (∀ r c, .status (.checksumMismatch r c) ∈ u.outs →
      o.fdStatusCode = 2 ∧ o.fdStatusRx = r ∧ o.fdStatusCalc = c) ∧
    (o.fdStatusValid = false → o.fdStatusCode = 0) ∧
    (∀ n, .status (.stall n) ∈ u.outs → o.wdStatusCode = 3 ∧ o.wdStatusElapsed = n) ∧
    (.status .acquireFail ∈ u.outs → o.wdStatusCode = 4) ∧
    (o.wdStatusValid = false → o.wdStatusCode = 0) ∧
    o.outLen = u.fd.outLen ∧ o.outChk = u.fd.outChk ∧
    (p.rst = false → o.rxReady = (if p.xportDone then xportResult p.xportOk s else s).rxEnable) ∧
    (∀ v, s.fd.buf.read p.rdAddr.toNat = some v → o.rdData = v) ∧
    (p.encHasP = false → o.encLen = 4 ∧ o.encKnown = known p.encId ∧
      o.encFormOk = formOk p.encId none ∧
      o.encFrame = (0x61 : Byte) ++ (1 : Byte) ++ p.encId ++ (0x62 + p.encId) ++ (0 : Byte)) ∧
    (p.encHasP = true → o.encLen = 5 ∧ o.encKnown = known p.encId ∧
      o.encFormOk = formOk p.encId (some p.encP) ∧
      o.encFrame =
        (0x61 : Byte) ++ (2 : Byte) ++ p.encId ++ p.encP ++ (0x63 + p.encId + p.encP))
end

