-- ==== Sys2Proof/Laws/Decode.lean ====
section
/-! SUPPORT. Small laws of the decoder, the encoder and the checksum. -/

namespace Sys2Proof

@[simp] theorem sum8_nil : sum8 [] = 0 := rfl
@[simp] theorem sum8_cons (b : Byte) (bs : List Byte) : sum8 (b :: bs) = b + sum8 bs := rfl

theorem sum8_append (xs ys : List Byte) : sum8 (xs ++ ys) = sum8 xs + sum8 ys := by
  induction xs with
  | nil => simp
  | cons x xs ih => simp [ih, BitVec.add_assoc]

@[simp] theorem encodeFrame_none (id : Byte) :
    encodeFrame id none = [txStart, 1, id, txStart + (1 + (id + 0))] := rfl

@[simp] theorem encodeFrame_some (id p : Byte) :
    encodeFrame id (some p) = [txStart, 2, id, p, txStart + (2 + (id + (p + 0)))] := rfl

/-- A sized tail is well formed when its payload has 1 to 255 bytes (R59). -/
theorem sized_wf {payload : List Byte} {c : Byte} :
    (RxTail.sized payload c).wf = true ↔ 1 ≤ payload.length ∧ payload.length ≤ 255 := by
  simp [RxTail.wf, maxSize]

/-- The size byte says the payload's length. -/
theorem sizeByte_toNat {payload : List Byte} (h : payload.length ≤ 255) :
    (BitVec.ofNat 8 payload.length).toNat = payload.length := by
  simp only [BitVec.toNat_ofNat]
  omega

/-- A payload's size byte is not 0. -/
theorem sizeByte_ne_zero {payload : List Byte} (h1 : 1 ≤ payload.length) (h2 : payload.length ≤ 255) :
    BitVec.ofNat 8 payload.length ≠ 0 := by
  intro h
  have h0 : payload.length = 0 := by
    rw [← sizeByte_toNat h2, h]
    rfl
  omega

/-- Every request is a well-formed row. -/
theorem requestInstr_wf (id : Byte) (p : Option Byte) : (requestInstr id p).wf = true := by
  cases p <;> simp only [requestInstr] <;> repeat' split
  all_goals simp_all [Instr.wf, shortIds, longIds]

/-- Every request is an outbound row. -/
theorem requestInstr_direction (id : Byte) (p : Option Byte) :
    (requestInstr id p).direction = .outbound := by
  cases p <;> simp only [requestInstr] <;> repeat' split
  all_goals rfl

/-- A request's row is spelled by the frame the encoder builds for it. -/
theorem encode_requestInstr (id : Byte) (p : Option Byte) :
    encode (requestInstr id p) = encodeFrame id p := by
  cases p <;> simp only [requestInstr] <;> repeat' split
  all_goals simp_all [encode]

/-- `form_ok` says that the pair is one of the nine rows, so no raw form (R66). -/
theorem formOk_cmdShort (id : Byte) :
    Machine.formOk id none = !(Instr.cmdShort id).wf := by
  simp [Machine.formOk, Instr.wf]

theorem formOk_cmdLong (id p : Byte) :
    Machine.formOk id (some p) = !(Instr.cmdLong id p).wf := by
  simp [Machine.formOk, Instr.wf]

end Sys2Proof
end

