-- ==== Sys2Proof/Laws/State.lean ====
section
/-! SUPPORT. One lemma per field of State and update, so that no proof unfolds a record update. -/

namespace Sys2Proof.Machine

variable (s : State) (o : Output) (st : Status) (i v b : Byte)

@[simp] theorem emit_cfg : (s.emit o).cfg = s.cfg := rfl
@[simp] theorem emit_fd : (s.emit o).fd = s.fd := rfl
@[simp] theorem emit_wd : (s.emit o).wd = s.wd := rfl
@[simp] theorem emit_pending : (s.emit o).pending = s.pending := rfl
@[simp] theorem emit_outs : (s.emit o).outs = s.outs ++ [o] := rfl
@[simp] theorem emit_freeCount : (s.emit o).freeCount = s.freeCount := rfl

@[simp] theorem raise_cfg : (s.raise st).cfg = s.cfg := rfl
@[simp] theorem raise_fd : (s.raise st).fd = s.fd := rfl
@[simp] theorem raise_wd : (s.raise st).wd = s.wd := rfl
@[simp] theorem raise_pending : (s.raise st).pending = s.pending := rfl
@[simp] theorem raise_outs : (s.raise st).outs = s.outs ++ [.status st] := rfl
@[simp] theorem raise_freeCount : (s.raise st).freeCount = s.freeCount := rfl

@[simp] theorem restart_cfg : s.restart.cfg = s.cfg := rfl
@[simp] theorem restart_wd : s.restart.wd = s.wd := rfl
@[simp] theorem restart_pending : s.restart.pending = s.pending := rfl
@[simp] theorem restart_outs : s.restart.outs = s.outs := rfl
@[simp] theorem restart_freeCount : s.restart.freeCount = s.freeCount := rfl
@[simp] theorem restart_fd_state : s.restart.fd.state = .awaitingStart := rfl
@[simp] theorem restart_fd_size : s.restart.fd.size = 0 := rfl
@[simp] theorem restart_fd_cnt : s.restart.fd.cnt = 0 := rfl
@[simp] theorem restart_fd_chk : s.restart.fd.chk = 0 := rfl
@[simp] theorem restart_fd_buf : s.restart.fd.buf = s.fd.buf := rfl
@[simp] theorem restart_fd_outLen : s.restart.fd.outLen = s.fd.outLen := rfl
@[simp] theorem restart_fd_outChk : s.restart.fd.outChk = s.fd.outChk := rfl

@[simp] theorem memWrite_cfg : (s.memWrite i v).cfg = s.cfg := rfl
@[simp] theorem memWrite_wd : (s.memWrite i v).wd = s.wd := rfl
@[simp] theorem memWrite_pending : (s.memWrite i v).pending = s.pending := rfl
@[simp] theorem memWrite_outs : (s.memWrite i v).outs = s.outs := rfl
@[simp] theorem memWrite_freeCount : (s.memWrite i v).freeCount = s.freeCount := rfl
@[simp] theorem memWrite_fd_state : (s.memWrite i v).fd.state = s.fd.state := rfl
@[simp] theorem memWrite_fd_size : (s.memWrite i v).fd.size = s.fd.size := rfl
@[simp] theorem memWrite_fd_cnt : (s.memWrite i v).fd.cnt = s.fd.cnt := rfl
@[simp] theorem memWrite_fd_chk : (s.memWrite i v).fd.chk = s.fd.chk := rfl
@[simp] theorem memWrite_fd_buf : (s.memWrite i v).fd.buf = s.fd.buf.write i.toNat v := rfl
@[simp] theorem memWrite_fd_outLen : (s.memWrite i v).fd.outLen = s.fd.outLen := rfl
@[simp] theorem memWrite_fd_outChk : (s.memWrite i v).fd.outChk = s.fd.outChk := rfl

@[simp] theorem rxStartMarker_cfg : (rxStartMarker b s).cfg = s.cfg := rfl
@[simp] theorem rxStartMarker_wd : (rxStartMarker b s).wd = s.wd := rfl
@[simp] theorem rxStartMarker_pending : (rxStartMarker b s).pending = s.pending := rfl
@[simp] theorem rxStartMarker_outs : (rxStartMarker b s).outs = s.outs := rfl
@[simp] theorem rxStartMarker_freeCount : (rxStartMarker b s).freeCount = s.freeCount := rfl
@[simp] theorem rxStartMarker_fd : (rxStartMarker b s).fd =
    { s.fd with chk := b, cnt := 0, state := .awaitingSize } := rfl

@[simp] theorem rxZeroSize_cfg : (rxZeroSize s).cfg = s.cfg := rfl
@[simp] theorem rxZeroSize_wd : (rxZeroSize s).wd = s.wd := rfl
@[simp] theorem rxZeroSize_pending : (rxZeroSize s).pending = s.pending := rfl
@[simp] theorem rxZeroSize_outs : (rxZeroSize s).outs = s.outs ++ [.status .zeroSize] := rfl
@[simp] theorem rxZeroSize_freeCount : (rxZeroSize s).freeCount = s.freeCount := rfl
@[simp] theorem rxZeroSize_fd : (rxZeroSize s).fd =
    { s.fd with state := .awaitingStart, size := 0, cnt := 0, chk := 0 } := rfl

@[simp] theorem rxSize_cfg : (rxSize b s).cfg = s.cfg := rfl
@[simp] theorem rxSize_wd : (rxSize b s).wd = s.wd := rfl
@[simp] theorem rxSize_pending : (rxSize b s).pending = s.pending := rfl
@[simp] theorem rxSize_outs : (rxSize b s).outs = s.outs := rfl
@[simp] theorem rxSize_freeCount : (rxSize b s).freeCount = s.freeCount := rfl
@[simp] theorem rxSize_fd : (rxSize b s).fd =
    { s.fd with size := b, chk := s.fd.chk + b, state := .awaitingPayload } := rfl

/-- The decoder after a payload byte, as one record. -/
theorem rxPayload_eq : rxPayload b s =
    { s with fd :=
      { s.fd with
        state := if s.fd.cnt + 1 = s.fd.size then .awaitingChecksum else s.fd.state
        cnt := s.fd.cnt + 1
        chk := s.fd.chk + b
        buf := s.fd.buf.write s.fd.cnt.toNat b } } := by
  simp only [rxPayload, memWrite_fd_cnt, memWrite_fd_size]
  split <;> simp_all [State.memWrite]

@[simp] theorem rxPayload_cfg : (rxPayload b s).cfg = s.cfg := by rw [rxPayload_eq]
@[simp] theorem rxPayload_wd : (rxPayload b s).wd = s.wd := by rw [rxPayload_eq]
@[simp] theorem rxPayload_pending : (rxPayload b s).pending = s.pending := by rw [rxPayload_eq]
@[simp] theorem rxPayload_outs : (rxPayload b s).outs = s.outs := by rw [rxPayload_eq]
@[simp] theorem rxPayload_freeCount : (rxPayload b s).freeCount = s.freeCount := by rw [rxPayload_eq]
@[simp] theorem rxPayload_fd_size : (rxPayload b s).fd.size = s.fd.size := by rw [rxPayload_eq]
@[simp] theorem rxPayload_fd_cnt : (rxPayload b s).fd.cnt = s.fd.cnt + 1 := by rw [rxPayload_eq]
@[simp] theorem rxPayload_fd_chk : (rxPayload b s).fd.chk = s.fd.chk + b := by rw [rxPayload_eq]
@[simp] theorem rxPayload_fd_buf :
    (rxPayload b s).fd.buf = s.fd.buf.write s.fd.cnt.toNat b := by rw [rxPayload_eq]
@[simp] theorem rxPayload_fd_outLen : (rxPayload b s).fd.outLen = s.fd.outLen := by rw [rxPayload_eq]
@[simp] theorem rxPayload_fd_outChk : (rxPayload b s).fd.outChk = s.fd.outChk := by rw [rxPayload_eq]
@[simp] theorem rxPayload_fd_state : (rxPayload b s).fd.state =
    if s.fd.cnt + 1 = s.fd.size then .awaitingChecksum else s.fd.state := by rw [rxPayload_eq]

variable (payload : List Byte)

@[simp] theorem emitFrame_cfg : (emitFrame payload b s).cfg = s.cfg := rfl
@[simp] theorem emitFrame_wd : (emitFrame payload b s).wd = { s.wd with elapsed := 0 } := rfl
@[simp] theorem emitFrame_pending : (emitFrame payload b s).pending = s.pending := rfl
@[simp] theorem emitFrame_outs :
    (emitFrame payload b s).outs = s.outs ++ [.frameOut payload b true] := rfl
@[simp] theorem emitFrame_freeCount : (emitFrame payload b s).freeCount = s.freeCount := rfl
@[simp] theorem emitFrame_fd : (emitFrame payload b s).fd =
    { s.fd with state := .awaitingStart, size := 0, cnt := 0, chk := 0,
                outLen := s.fd.size, outChk := b } := rfl

@[simp] theorem rxMismatch_cfg : (rxMismatch b s).cfg = s.cfg := rfl
@[simp] theorem rxMismatch_wd : (rxMismatch b s).wd = s.wd := rfl
@[simp] theorem rxMismatch_pending : (rxMismatch b s).pending = s.pending := rfl
@[simp] theorem rxMismatch_outs :
    (rxMismatch b s).outs = s.outs ++ [.status (.checksumMismatch b s.fd.chk)] := rfl
@[simp] theorem rxMismatch_freeCount : (rxMismatch b s).freeCount = s.freeCount := rfl
@[simp] theorem rxMismatch_fd : (rxMismatch b s).fd =
    { s.fd with state := .awaitingStart, size := 0, cnt := 0, chk := 0 } := rfl

@[simp] theorem resetEvent_cfg : (resetEvent s).cfg = s.cfg := rfl
@[simp] theorem resetEvent_fd : (resetEvent s).fd = Fd.reset s.fd.buf := rfl
@[simp] theorem resetEvent_wd : (resetEvent s).wd = Wd.reset := rfl
@[simp] theorem resetEvent_pending : (resetEvent s).pending = s.pending := rfl
@[simp] theorem resetEvent_outs : (resetEvent s).outs = s.outs := rfl
@[simp] theorem resetEvent_freeCount : (resetEvent s).freeCount = s.freeCount := rfl

variable (p : ClockIn) (final : State) (ready : Bool)

@[simp] theorem closeClock_cfg : (closeClock p s ready final).cfg = final.cfg := rfl
@[simp] theorem closeClock_fd : (closeClock p s ready final).fd = final.fd := rfl
@[simp] theorem closeClock_wd : (closeClock p s ready final).wd = final.wd := rfl
@[simp] theorem closeClock_pending : (closeClock p s ready final).pending = final.pending := rfl
@[simp] theorem closeClock_outs : (closeClock p s ready final).outs =
    s.outs ++ final.outs ++ [.ports (clockPorts p s ready final)] := rfl
@[simp] theorem closeClock_freeCount : (closeClock p s ready final).freeCount = s.freeCount + 1 := rfl

@[simp] theorem andThen_next (f : State → Host.Outcome State Fault Refusal) :
    andThen (.next s) f = f s := rfl

/-- The constraints of R13 and R14. -/
theorem valid_iff (c : Config) :
    c.valid = true ↔ 1 ≤ c.checkPeriod ∧ c.stallThreshold < c.elapsedMax := by
  simp only [Config.valid, Bool.and_eq_true, decide_eq_true_eq]

/-- The byte gate is open exactly when the watchdog is idle and holds a link (R34). -/
theorem rxEnable_iff : s.rxEnable = true ↔ s.wd.state = .idle ∧ s.wd.linkDown = false := by
  simp [State.rxEnable]

/-- The byte gate depends on the watchdog's registers alone. -/
theorem rxEnable_congr {s t : State} (hs : t.wd.state = s.wd.state)
    (hl : t.wd.linkDown = s.wd.linkDown) : t.rxEnable = s.rxEnable := by
  simp [State.rxEnable, hs, hl]

end Sys2Proof.Machine
end

