-- ==== Sys2Proof/Laws/Memory.lean ====
section
/-! SUPPORT. The laws of the payload buffer: read after write, the canonical form, ranges. -/

namespace Sys2Proof.Machine

@[simp] theorem read_nil (a : Nat) : Memory.read [] a = none := rfl

theorem read_write_same (m : Memory) (a : Nat) (v : Byte) : (m.write a v).read a = some v := by
  induction m with
  | nil => simp [Memory.write, Memory.read]
  | cons c m ih =>
    obtain ⟨k, w⟩ := c
    by_cases h1 : a < k
    · simp [Memory.write, Memory.read, h1]
    · by_cases h2 : a = k
      · simp [Memory.write, Memory.read, h2]
      · simp [Memory.write, Memory.read, h1, h2, Ne.symm h2, ih]

theorem read_write_other (m : Memory) {a b : Nat} (v : Byte) (h : b ≠ a) :
    (m.write a v).read b = m.read b := by
  induction m with
  | nil => simp [Memory.write, Memory.read, h.symm]
  | cons c m ih =>
    obtain ⟨k, w⟩ := c
    by_cases h1 : a < k
    · simp [Memory.write, Memory.read, h1, h.symm]
    · by_cases h2 : a = k
      · subst h2
        simp [Memory.write, Memory.read, h.symm]
      · simp [Memory.write, Memory.read, h1, h2, ih]

theorem risingFrom_write {lo a : Nat} {m : Memory} {v : Byte} (h : Memory.risingFrom lo m = true)
    (hlo : lo ≤ a) (ha : a < bufCap) : Memory.risingFrom lo (m.write a v) = true := by
  induction m generalizing lo with
  | nil => simp [Memory.write, Memory.risingFrom, hlo, ha]
  | cons c m ih =>
    obtain ⟨k, w⟩ := c
    simp only [Memory.risingFrom, Bool.and_eq_true, decide_eq_true_eq] at h
    obtain ⟨⟨h1, h2⟩, h3⟩ := h
    by_cases hak : a < k
    · simp [Memory.write, Memory.risingFrom, hak, hlo, ha, h2, h3, Nat.succ_le_of_lt hak]
    · by_cases hek : a = k
      · subst hek
        simp [Memory.write, Memory.risingFrom, h1, h2, h3]
      · simp [Memory.write, Memory.risingFrom, hak, hek, h1, h2, ih h3 (by omega)]

/-- A write keeps the canonical form. -/
theorem wf_write {a : Nat} {m : Memory} {v : Byte} (h : m.wf = true) (ha : a < bufCap) :
    (m.write a v).wf = true :=
  risingFrom_write h (Nat.zero_le a) ha

/-- In canonical form, equal reads mean equal buffers: an index below the first one reads as `none`. -/
theorem read_of_risingFrom {lo a : Nat} {m : Memory} (h : Memory.risingFrom lo m = true)
    (ha : a < lo) : m.read a = none := by
  induction m generalizing lo with
  | nil => rfl
  | cons c m ih =>
    obtain ⟨k, w⟩ := c
    simp only [Memory.risingFrom, Bool.and_eq_true, decide_eq_true_eq] at h
    have hk : k ≠ a := by omega
    simp [Memory.read, hk, ih h.2 (by omega)]

@[simp] theorem readRange_zero (m : Memory) (a : Nat) : m.readRange a 0 = some [] := rfl

/-- A range reads as a list exactly when each of its cells reads as that list's entry. -/
theorem readRange_eq_some {m : Memory} {a n : Nat} {bs : List Byte} :
    m.readRange a n = some bs ↔
      bs.length = n ∧ ∀ k (h : k < bs.length), m.read (a + k) = some bs[k] := by
  induction n generalizing a bs with
  | zero =>
    simp only [readRange_zero, Option.some.injEq]
    constructor
    · rintro rfl
      simp
    · rintro ⟨h, -⟩
      exact (List.length_eq_zero_iff.mp h).symm
  | succ n ih =>
    simp only [Memory.readRange]
    cases hr : m.read a with
    | none =>
      simp only [reduceCtorEq, false_iff, not_and]
      intro hl hall
      have := hall 0 (by omega)
      simp [hr] at this
    | some v =>
      simp only [Option.map_eq_some_iff]
      constructor
      · rintro ⟨t, ht, rfl⟩
        obtain ⟨hl, hall⟩ := ih.mp ht
        refine ⟨by simp [hl], fun k hk => ?_⟩
        cases k with
        | zero => simpa using hr
        | succ k =>
          have := hall k (by simpa using hk)
          simpa [Nat.add_assoc, Nat.add_comm 1 k] using this
      · rintro ⟨hl, hall⟩
        cases bs with
        | nil => simp at hl
        | cons b t =>
          have hb := hall 0 (by simp)
          simp only [Nat.add_zero, hr, List.getElem_cons_zero, Option.some.injEq] at hb
          refine ⟨t, ih.mpr ⟨by simpa using hl, fun k hk => ?_⟩, by rw [hb]⟩
          have := hall (k + 1) (by simpa using hk)
          simpa [Nat.add_assoc, Nat.add_comm 1 k] using this

theorem readRange_length {m : Memory} {a n : Nat} {bs : List Byte} (h : m.readRange a n = some bs) :
    bs.length = n := (readRange_eq_some.mp h).1

/-- A write outside a range leaves it. -/
theorem readRange_write_outside {m : Memory} {a n i : Nat} {v : Byte} (h : i < a ∨ a + n ≤ i) :
    (m.write i v).readRange a n = m.readRange a n := by
  induction n generalizing a with
  | zero => rfl
  | succ n ih =>
    simp only [Memory.readRange, read_write_other m v (show a ≠ i by omega), ih (a := a + 1) (by omega)]

/-- A write just after a range extends it. -/
theorem readRange_write_end {m : Memory} {a n : Nat} {v : Byte} {bs : List Byte}
    (h : m.readRange a n = some bs) : (m.write (a + n) v).readRange a (n + 1) = some (bs ++ [v]) := by
  obtain ⟨hl, hall⟩ := readRange_eq_some.mp h
  refine readRange_eq_some.mpr ⟨by simp [hl], fun k hk => ?_⟩
  by_cases hkn : k = n
  · subst hkn
    simp [read_write_same, hl]
  · have hk' : k < bs.length := by simp at hk; omega
    rw [read_write_other m v (by omega), hall k hk', List.getElem_append_left hk']

/-- A write keeps a range readable. -/
theorem readRange_write_isSome {m : Memory} {a n i : Nat} {v : Byte}
    (h : (m.readRange a n).isSome = true) : ((m.write i v).readRange a n).isSome = true := by
  induction n generalizing a with
  | zero => rfl
  | succ n ih =>
    simp only [Memory.readRange] at h ⊢
    cases hr : m.read a with
    | none => simp [hr] at h
    | some w =>
      have hrest : (m.readRange (a + 1) n).isSome = true := by simpa [hr] using h
      by_cases hi : a = i
      · subst hi
        simp [read_write_same, ih hrest]
      · simp [read_write_other m v hi, hr, ih hrest]

end Sys2Proof.Machine
end

