-- ==== Sys2Proof/Laws/PerInstr.lean ====
section
/-! SUPPORT. The family `StartByte`: the frame of every instruction begins with a start byte the decoder
accepts (R10, R11, R58), one lemma per constructor. -/

namespace Sys2Proof.Laws.StartByte

/-- The first byte of an instruction's frame is one of the two start bytes. -/
def Statement (i : Instr) : Prop :=
  (encode i).head? = some startPrimary ∨ (encode i).head? = some startLegacy

theorem lightA (p : Byte) : Statement (.lightA p) := .inr rfl
theorem lightB (p : Byte) : Statement (.lightB p) := .inr rfl
theorem lightsOff : Statement .lightsOff := .inr rfl
theorem beaconOn : Statement .beaconOn := .inr rfl
theorem switch (p : Byte) : Statement (.switch p) := .inr rfl
theorem beaconOff : Statement .beaconOff := .inr rfl
theorem releaseSafe : Statement .releaseSafe := .inr rfl
theorem releaseArm : Statement .releaseArm := .inr rfl
theorem releaseFire : Statement .releaseFire := .inr rfl
theorem cmdShort (id : Byte) : Statement (.cmdShort id) := .inr rfl
theorem cmdLong (id p : Byte) : Statement (.cmdLong id p) := .inr rfl
theorem rxFramePrimary (t : RxTail) : Statement (.rxFramePrimary t) := .inl rfl
theorem rxFrameLegacy (t : RxTail) : Statement (.rxFrameLegacy t) := .inr rfl

end Sys2Proof.Laws.StartByte
end

