-- ==== Sys2Proof/Laws/Step.lean ====
section
/-! SUPPORT. What each shared operation can do, said once: inversion lemmas of the byte step, the check,
the tick, the answer, the read port, sequences and the clock. -/

namespace Sys2Proof.Machine

/-! ### Sequences -/

theorem andThen_eq_next {o : Host.Outcome State Fault Refusal}
    {f : State → Host.Outcome State Fault Refusal} {t : State} :
    andThen o f = .next t ↔ ∃ s, o = .next s ∧ f s = .next t := by
  cases o <;> simp [andThen]

@[simp] theorem rxBytes_nil (s : State) : rxBytes [] s = .next s := rfl

@[simp] theorem rxBytes_cons (b : Byte) (bs : List Byte) (s : State) :
    rxBytes (b :: bs) s = andThen (rxByte b s) (rxBytes bs) := rfl

theorem andThen_assoc (o : Host.Outcome State Fault Refusal)
    (f g : State → Host.Outcome State Fault Refusal) :
    andThen (andThen o f) g = andThen o fun s => andThen (f s) g := by
  cases o <;> rfl

theorem rxBytes_append (xs ys : List Byte) (s : State) :
    rxBytes (xs ++ ys) s = andThen (rxBytes xs s) (rxBytes ys) := by
  induction xs generalizing s with
  | nil => rfl
  | cons x xs ih =>
    simp only [List.cons_append, rxBytes_cons, andThen_assoc]
    congr 1
    funext u
    exact ih u

@[simp] theorem runInputs_nil (s : State) : runInputs [] s = .next s := rfl

@[simp] theorem runInputs_cons (e : Input) (es : List Input) (s : State) :
    runInputs (e :: es) s = andThen (takeInput e s) (runInputs es) := rfl

theorem runInputs_append (xs ys : List Input) (s : State) :
    runInputs (xs ++ ys) s = andThen (runInputs xs s) (runInputs ys) := by
  induction xs generalizing s with
  | nil => rfl
  | cons x xs ih =>
    simp only [List.cons_append, runInputs_cons, andThen_assoc]
    congr 1
    funext u
    exact ih u

/-! ### The decoder -/

/-- The next states of one byte step, one case per rule (R74 to R81, R108). -/
inductive RxStep (b : Byte) (s : State) : State → Prop where
  | dropped (gate : s.rxEnable = false) : RxStep b s s
  | startMarker (gate : s.rxEnable = true) (phase : s.fd.state = .awaitingStart)
      (marker : isStartMarker b = true) : RxStep b s (rxStartMarker b s)
  | noise (gate : s.rxEnable = true) (phase : s.fd.state = .awaitingStart)
      (marker : isStartMarker b = false) : RxStep b s s
  | zeroSize (gate : s.rxEnable = true) (phase : s.fd.state = .awaitingSize)
      (size : b = 0) : RxStep b s (rxZeroSize s)
  | size (gate : s.rxEnable = true) (phase : s.fd.state = .awaitingSize)
      (size : b ≠ 0) : RxStep b s (rxSize b s)
  | payload (gate : s.rxEnable = true) (phase : s.fd.state = .awaitingPayload) :
      RxStep b s (rxPayload b s)
  | valid (gate : s.rxEnable = true) (phase : s.fd.state = .awaitingChecksum) (sum : b = s.fd.chk)
      (payload : List Byte) (cells : s.fd.buf.readRange 0 s.fd.size.toNat = some payload) :
      RxStep b s (emitFrame payload b s)
  | mismatch (gate : s.rxEnable = true) (phase : s.fd.state = .awaitingChecksum)
      (sum : b ≠ s.fd.chk) : RxStep b s (rxMismatch b s)

/-- The byte step's inversion. -/
theorem rxByte_inversion {b : Byte} {s t : State} (h : rxByte b s = .next t) : RxStep b s t := by
  unfold rxByte at h
  split at h
  · next gate =>
    split at h
    · next phase =>
      split at h
      · next marker =>
        cases h
        exact .startMarker gate phase marker
      · next marker =>
        cases h
        exact .noise gate phase (by simpa using marker)
    · next phase =>
      split at h
      · next size =>
        cases h
        exact .zeroSize gate phase size
      · next size =>
        cases h
        exact .size gate phase size
    · next phase =>
      cases h
      exact .payload gate phase
    · next phase =>
      split at h
      · next sum =>
        unfold rxValidFrame at h
        split at h
        · next payload cells =>
          cases h
          exact .valid gate phase sum payload cells
        · cases h
      · next sum =>
        cases h
        exact .mismatch gate phase sum
  · next gate =>
    cases h
    exact .dropped (by simpa using gate)

/-- The only way a byte step stops: a matching checksum over a cell never written. -/
theorem rxByte_stops {b : Byte} {s : State} :
    (∃ t, rxByte b s = .next t) ∨
      (rxByte b s = .fault .unwrittenCell ∧ s.rxEnable = true ∧ s.fd.state = .awaitingChecksum ∧
        b = s.fd.chk ∧ s.fd.buf.readRange 0 s.fd.size.toNat = none) := by
  cases gate : s.rxEnable
  · exact .inl ⟨s, by simp [rxByte, gate]⟩
  · cases phase : s.fd.state <;> simp only [rxByte, gate, phase, if_true]
    · split <;> exact .inl ⟨_, rfl⟩
    · split <;> exact .inl ⟨_, rfl⟩
    · exact .inl ⟨_, rfl⟩
    · split
      · next sum =>
        unfold rxValidFrame
        cases cells : s.fd.buf.readRange 0 s.fd.size.toNat with
        | some payload => exact .inl ⟨_, rfl⟩
        | none => exact .inr ⟨rfl, by simp, by simp, sum, by simp⟩
      · exact .inl ⟨_, rfl⟩

/-- What no byte step changes: the configuration, the offered items, the free values' index, and all
of the watchdog but the elapsed time. -/
theorem rxByte_frame {b : Byte} {s t : State} (h : rxByte b s = .next t) :
    t.cfg = s.cfg ∧ t.pending = s.pending ∧ t.freeCount = s.freeCount ∧
      t.wd.state = s.wd.state ∧ t.wd.linkDown = s.wd.linkDown ∧ t.wd.checkDiv = s.wd.checkDiv := by
  cases rxByte_inversion h <;> simp

/-! ### The watchdog -/

theorem check_reconnecting {s : State} (h : s.wd.state = .reconnecting) : check s = s := by
  simp [check, h]

theorem check_quiet {s : State} (h : s.wd.state = .idle) (hl : s.wd.linkDown = false)
    (he : s.wd.elapsed ≤ s.cfg.stallThreshold) : check s = s := by
  simp [check, h, State.wantsReconnect, hl, he]

theorem check_stall {s : State} (h : s.wd.state = .idle) (hl : s.wd.linkDown = false)
    (he : s.cfg.stallThreshold < s.wd.elapsed) :
    check s = { s with
      outs := s.outs ++ [.status (.stall s.wd.elapsed), .reconnectReq true]
      wd := { s.wd with state := .reconnecting } } := by
  simp [check, h, State.wantsReconnect, hl, he, State.raise, State.emit]

theorem check_connect {s : State} (h : s.wd.state = .idle) (hl : s.wd.linkDown = true) :
    check s = { s with
      outs := s.outs ++ [.reconnectReq false]
      wd := { s.wd with state := .reconnecting } } := by
  simp [check, h, State.wantsReconnect, hl, State.emit]

/-- The check's inversion: it changes nothing, or it starts one attempt from `IDLE`. -/
theorem check_inversion (s : State) :
    check s = s ∨
      s.wd.state = .idle ∧ s.wd.linkDown = true ∧
        check s = { s with
          outs := s.outs ++ [.reconnectReq false]
          wd := { s.wd with state := .reconnecting } } ∨
      s.wd.state = .idle ∧ s.wd.linkDown = false ∧ s.cfg.stallThreshold < s.wd.elapsed ∧
        check s = { s with
          outs := s.outs ++ [.status (.stall s.wd.elapsed), .reconnectReq true]
          wd := { s.wd with state := .reconnecting } } := by
  cases hs : s.wd.state
  · cases hl : s.wd.linkDown
    · by_cases he : s.cfg.stallThreshold < s.wd.elapsed
      · exact .inr (.inr ⟨rfl, rfl, he, check_stall hs hl he⟩)
      · exact .inl (check_quiet hs hl (Nat.le_of_not_lt he))
    · exact .inr (.inl ⟨rfl, rfl, check_connect hs hl⟩)
  · exact .inl (check_reconnecting hs)

/-- What no check changes. -/
theorem check_frame (s : State) :
    (check s).cfg = s.cfg ∧ (check s).fd = s.fd ∧ (check s).pending = s.pending ∧
      (check s).freeCount = s.freeCount ∧ (check s).wd.linkDown = s.wd.linkDown ∧
      (check s).wd.checkDiv = s.wd.checkDiv ∧ (check s).wd.elapsed = s.wd.elapsed := by
  rcases check_inversion s with h | ⟨-, -, h⟩ | ⟨-, -, -, h⟩ <;> simp [h]

/-- A state whose two counters are replaced. -/
def State.setCounters (s : State) (elapsed checkDiv : Nat) : State :=
  { s with wd := { s.wd with elapsed := elapsed, checkDiv := checkDiv } }

@[simp] theorem setCounters_cfg (s : State) (e d : Nat) : (s.setCounters e d).cfg = s.cfg := rfl
@[simp] theorem setCounters_fd (s : State) (e d : Nat) : (s.setCounters e d).fd = s.fd := rfl
@[simp] theorem setCounters_pending (s : State) (e d : Nat) :
    (s.setCounters e d).pending = s.pending := rfl
@[simp] theorem setCounters_outs (s : State) (e d : Nat) : (s.setCounters e d).outs = s.outs := rfl
@[simp] theorem setCounters_freeCount (s : State) (e d : Nat) :
    (s.setCounters e d).freeCount = s.freeCount := rfl
@[simp] theorem setCounters_wd (s : State) (e d : Nat) :
    (s.setCounters e d).wd = { s.wd with elapsed := e, checkDiv := d } := rfl

/-- A tick counts, and checks on every `CHECK_PERIOD`-th (R100). -/
theorem tick_eq (s : State) :
    tick s = if s.wd.checkDiv + 1 = s.cfg.checkPeriod
      then check (s.setCounters (satInc s.cfg.elapsedMax s.wd.elapsed) 0)
      else s.setCounters (satInc s.cfg.elapsedMax s.wd.elapsed) (s.wd.checkDiv + 1) := rfl

/-- What no tick changes, and what it makes of the counters. -/
theorem tick_frame (s : State) :
    (tick s).cfg = s.cfg ∧ (tick s).fd = s.fd ∧ (tick s).pending = s.pending ∧
      (tick s).freeCount = s.freeCount ∧ (tick s).wd.linkDown = s.wd.linkDown ∧
      (tick s).wd.elapsed = satInc s.cfg.elapsedMax s.wd.elapsed ∧
      (tick s).wd.checkDiv =
        if s.wd.checkDiv + 1 = s.cfg.checkPeriod then 0 else s.wd.checkDiv + 1 := by
  rw [tick_eq]
  split
  · obtain ⟨h1, h2, h3, h4, h5, h6, h7⟩ :=
      check_frame (s.setCounters (satInc s.cfg.elapsedMax s.wd.elapsed) 0)
    simp only [h1, h2, h3, h4, h5, h6, h7, setCounters_cfg, setCounters_fd, setCounters_pending,
      setCounters_freeCount, setCounters_wd, and_self]
  · simp

theorem xportResult_idle {s : State} (ok : Bool) (h : s.wd.state = .idle) : xportResult ok s = s := by
  simp [xportResult, h]

theorem xportResult_true {s : State} (h : s.wd.state = .reconnecting) :
    xportResult true s =
      { s with wd := { s.wd with elapsed := 0, linkDown := false, state := .idle } } := by
  simp [xportResult, h]

theorem xportResult_false {s : State} (h : s.wd.state = .reconnecting) :
    xportResult false s =
      { s with
        outs := s.outs ++ [.status .acquireFail]
        wd := { s.wd with linkDown := true, state := .idle } } := by
  simp [xportResult, h, State.raise, State.emit]

/-- What no answer changes. -/
theorem xportResult_frame (ok : Bool) (s : State) :
    (xportResult ok s).cfg = s.cfg ∧ (xportResult ok s).fd = s.fd ∧
      (xportResult ok s).pending = s.pending ∧ (xportResult ok s).freeCount = s.freeCount ∧
      (xportResult ok s).wd.checkDiv = s.wd.checkDiv := by
  cases hs : s.wd.state
  · simp [xportResult_idle ok hs]
  · cases ok
    · simp [xportResult_false hs]
    · simp [xportResult_true hs]

theorem satInc_le {max v : Nat} (h : v ≤ max) : satInc max v ≤ max := by
  unfold satInc
  split <;> omega

theorem satInc_eq_min {max v : Nat} (h : v ≤ max) : satInc max v = min (v + 1) max := by
  unfold satInc
  split <;> omega

/-! ### The read port, the step and the clock -/

theorem bufRead_inversion {i : Byte} {s t : State} (h : bufRead i s = .next t) :
    ∃ v, s.fd.buf.read i.toNat = some v ∧ t = s.emit (.readData v) := by
  unfold bufRead State.memRead at h
  split at h
  · next v hv =>
    cases h
    exact ⟨v, hv, rfl⟩
  · cases h

theorem takeFrame_inversion {d : Direction} {bytes : List Byte} {s t : State}
    (h : takeFrame d bytes s = .next t) : ∃ i, decode d bytes = .ok i [] ∧ exec i s = .next t := by
  unfold takeFrame at h
  split at h
  · next i hi => exact ⟨i, hi, h⟩
  · cases h
  · cases h

/-- The step's inversion: nothing was offered, or the first item was taken. -/
theorem step_inversion {s t : State} (h : step s = .next t) :
    s.cfg.valid = true ∧
      (s.pending = [] ∧ t = s ∨
        ∃ it rest, s.pending = it :: rest ∧ takeItem it { s with pending := rest } = .next t) := by
  unfold step stepPending at h
  split at h
  · next hv =>
    refine ⟨hv, ?_⟩
    split at h
    · next hp =>
      cases h
      exact .inl ⟨hp, rfl⟩
    · next it rest hp => exact .inr ⟨it, rest, hp, h⟩
  · cases h

/-- The clock's inversion (R143): `Reset` alone, or the answer, the byte and the tick in that order. -/
theorem clock_inversion {p : ClockIn} {s t : State} (h : clock p s = .next t) :
    (p.rst = true ∧
      t = closeClock p s (resetEvent { s with outs := [] }).rxEnable
        (resetEvent { s with outs := [] })) ∨
      (p.rst = false ∧ ∃ a b c,
        a = (if p.xportDone then xportResult p.xportOk { s with outs := [] }
          else { s with outs := [] }) ∧
        (if p.rxValid then rxByte p.rxByte a else .next a) = .next b ∧
        c = (if p.tick then tick b else b) ∧ t = closeClock p s a.rxEnable c) := by
  cases hr : p.rst
  · simp only [clock, hr, Bool.false_eq_true, if_false] at h
    obtain ⟨b, hb, ht⟩ := andThen_eq_next.mp h
    cases ht
    exact .inr ⟨rfl, _, b, _, rfl, hb, rfl, rfl⟩
  · simp only [clock, hr, if_true] at h
    cases h
    exact .inl ⟨rfl, rfl⟩

/-! ### A clock's statuses and runs with the gate open -/

/-- A clock's decoder status port is up exactly with a status of the decoder. -/
theorem decoderStatus_isSome (os : List Output) :
    (decoderStatus os).isSome = true ↔
      .status .zeroSize ∈ os ∨ ∃ r c, .status (.checksumMismatch r c) ∈ os := by
  induction os with
  | nil => simp [decoderStatus]
  | cons o os ih =>
    cases o with
    | status st =>
      cases st with
      | checksumMismatch r c =>
        simp only [decoderStatus, Option.isSome_some, true_iff]
        exact .inr ⟨r, c, by simp⟩
      | _ => simp [decoderStatus, ih]
    | _ => simp [decoderStatus, ih]

/-- A clock's watchdog status port is up exactly with a status of the watchdog. -/
theorem watchdogStatus_isSome (os : List Output) :
    (watchdogStatus os).isSome = true ↔
      .status .acquireFail ∈ os ∨ ∃ n, .status (.stall n) ∈ os := by
  induction os with
  | nil => simp [watchdogStatus]
  | cons o os ih =>
    cases o with
    | status st =>
      cases st with
      | stall n =>
        simp only [watchdogStatus, Option.isSome_some, true_iff]
        exact .inr ⟨n, by simp⟩
      | _ => simp [watchdogStatus, ih]
    | _ => simp [watchdogStatus, ih]

theorem gateOpenAlong_cons {e : Input} {es : List Input} {s : State} :
    gateOpenAlong (e :: es) s = true ↔
      s.rxEnable = true ∧ ∃ t, takeInput e s = .next t ∧ gateOpenAlong es t = true := by
  cases h : takeInput e s <;> simp [gateOpenAlong, h]

/-- Along such a run the gate is open at the start. -/
theorem gateOpenAlong_start {es : List Input} {s : State} (h : gateOpenAlong es s = true) :
    s.rxEnable = true := by
  cases es with
  | nil => exact h
  | cons e es => exact (gateOpenAlong_cons.mp h).1

end Sys2Proof.Machine
end

