-- ==== Sys2Proof/Tests/Slice0.lean ====
section
/-! SUPPORT. The model's own tests: the refusals of well-formedness, decoding of words written out from the
spec, vectors of `95_test_vectors.md`, and a witness for the hypotheses of each obligation. -/

namespace Sys2Proof.Tests

open Sys2Proof.Machine

/-! ### Small states -/

/-- S0 of `95_test_vectors.md`: connected, idle, nothing received. -/
def connected : State := { State.reset with wd := { Wd.reset with linkDown := false } }

/-- S0 with other decoder registers. -/
def withFd (state : DecoderState) (size cnt chk : Byte) (buf : Memory) : State :=
  { connected with fd := { Fd.reset buf with state := state, size := size, cnt := cnt, chk := chk } }

/-- DEC-15: after `62`. -/
def inSize : State := withFd .awaitingSize 0 0 0x62 []

/-- DEC-16: after `62 02 10`. -/
def inPayload : State := withFd .awaitingPayload 2 1 0x74 [(0, 0x10)]

/-- DEC-17: after `62 02 10 20`. -/
def inChecksum : State := withFd .awaitingChecksum 2 2 0x94 [(0, 0x10), (1, 0x20)]

/-- After the frame `62 02 10 20 94`. -/
def afterFrame : State :=
  { connected with fd := { Fd.reset [(0, 0x10), (1, 0x20)] with outLen := 2, outChk := 0x94 } }

/-- S0 with other watchdog registers. -/
def withWd (state : WdState) (linkDown : Bool) (checkDiv elapsed : Nat) : State :=
  { connected with
    wd := { state := state, linkDown := linkDown, checkDiv := checkDiv, elapsed := elapsed } }

/-- WD-6: a request is outstanding. -/
def waiting : State := withWd .reconnecting false 0 6

/-- A state with one more offered item. -/
def offering (s : State) (it : Item) : State := { s with pending := it :: s.pending }

/-- Whether an outcome is this next state. -/
def ends (o : Host.Outcome State Fault Refusal) (t : State) : Bool :=
  match o with
  | .next u => decide (u = t)
  | .fault _ => false
  | .refused _ => false

/-- Whether an outcome is this fault. -/
def faults (o : Host.Outcome State Fault Refusal) (r : Fault) : Bool :=
  match o with
  | .next _ => false
  | .fault q => decide (q = r)
  | .refused _ => false

/-- Whether an outcome is this refusal. -/
def refuses (o : Host.Outcome State Fault Refusal) (r : Refusal) : Bool :=
  match o with
  | .next _ => false
  | .fault _ => false
  | .refused q => decide (q = r)

/-- The ports of a clock that is the only one in its outputs, if the outcome is a next state. -/
def lastPorts (o : Host.Outcome State Fault Refusal) : Option ClockOut :=
  match o with
  | .next u =>
    match u.outs.getLast? with
    | some (.ports p) => some p
    | _ => none
  | .fault _ => none
  | .refused _ => none

/-- The input ports of a clock in which nothing is offered. -/
def noInputs : ClockIn :=
  { rst := false, rxValid := false, rxByte := 0, tick := false, xportDone := false, xportOk := false,
    rdAddr := 0, encId := 0x30, encHasP := false, encP := 0 }

/-! ### Well-formedness refuses -/

/-- `CMD 0x33` is spelled as `LIGHTS_OFF` (the table's note on `CMD`). -/
theorem test_wf_refuses_raw_short : (Instr.cmdShort 0x33).wf = false := by decide

/-- `CMD 0x31 0x00` is spelled as `LIGHT_A 0`. -/
theorem test_wf_refuses_raw_long : (Instr.cmdLong 0x31 0).wf = false := by decide

/-- A declared size of 0 has no payload and no checksum (R59). -/
theorem test_wf_refuses_empty_payload : (Instr.rxFramePrimary (.sized [] 0)).wf = false := by decide

/-- No frame declares more than 255 payload bytes (R9). -/
theorem test_wf_refuses_long_payload :
    (Instr.rxFrameLegacy (.sized (List.replicate 256 0) 0)).wf = false := by
  simp only [Instr.wf, RxTail.wf, List.length_replicate]
  decide

/-! ### Decoding of words written out from the spec -/

/-- LIGHT_A, ENC-1. -/
theorem test_decode_lightA :
    decode .outbound [0x61, 0x02, 0x31, 0x01, 0x95] = .ok (.lightA 1) [] := by decide

/-- LIGHT_B, ENC-3. -/
theorem test_decode_lightB :
    decode .outbound [0x61, 0x02, 0x32, 0x01, 0x96] = .ok (.lightB 1) [] := by decide

/-- LIGHTS_OFF, ENC-5. -/
theorem test_decode_lightsOff :
    decode .outbound [0x61, 0x01, 0x33, 0x95] = .ok .lightsOff [] := by decide

/-- BEACON_ON, ENC-6, and SWITCH, ENC-7: the size byte tells the two forms apart (R64). -/
theorem test_decode_beaconOn_switch :
    decode .outbound [0x61, 0x01, 0x34, 0x96] = .ok .beaconOn [] ∧
    decode .outbound [0x61, 0x02, 0x34, 0x01, 0x98] = .ok (.switch 1) [] := by decide

/-- BEACON_OFF, ENC-9. -/
theorem test_decode_beaconOff :
    decode .outbound [0x61, 0x01, 0x35, 0x97] = .ok .beaconOff [] := by decide

/-- RELEASE_SAFE, RELEASE_ARM and RELEASE_FIRE, ENC-10 to ENC-12. -/
theorem test_decode_release :
    decode .outbound [0x61, 0x01, 0x37, 0x99] = .ok .releaseSafe [] ∧
    decode .outbound [0x61, 0x01, 0x38, 0x9A] = .ok .releaseArm [] ∧
    decode .outbound [0x61, 0x01, 0x39, 0x9B] = .ok .releaseFire [] := by decide

/-- CMD, ENC-14 and ENC-13. -/
theorem test_decode_cmd :
    decode .outbound [0x61, 0x01, 0x36, 0x98] = .ok (.cmdShort 0x36) [] ∧
    decode .outbound [0x61, 0x02, 0x39, 0x01, 0x9D] = .ok (.cmdLong 0x39 1) [] := by decide

/-- The inbound rows: `FRAME(62; 10 20)` of R72, DEC-2, and the zero size of L1-3 with what follows. -/
theorem test_decode_inbound :
    decode .inbound [0x62, 0x02, 0x10, 0x20, 0x94] =
      .ok (.rxFramePrimary (.sized [0x10, 0x20] 0x94)) [] ∧
    decode .inbound [0x61, 0x01, 0x41, 0xA3] = .ok (.rxFrameLegacy (.sized [0x41] 0xA3)) [] ∧
    decode .inbound [0x62, 0x00, 0x61] = .ok (.rxFramePrimary .zeroSize) [0x61] ∧
    decode .inbound [0x61, 0x00] = .ok (.rxFrameLegacy .zeroSize) [] := by decide

/-- Rejections by name: an outbound frame starts with 0x61 only (R61), its size is 1 or 2 (R62), an inbound
one starts with 0x62 or 0x61 (R58), and both end where R69 says. -/
theorem test_decode_rejects :
    decode .outbound [0x62, 0x01, 0x33, 0x96] = .reject .badStart ∧
    decode .outbound [0x61, 0x03, 0x33, 0x00, 0x00, 0x97] = .reject .badSize ∧
    decode .outbound [0x61, 0x00] = .reject .badSize ∧
    decode .outbound [0x61, 0x02, 0x31, 0x01] = .reject .truncated ∧
    decode .inbound [0x7E, 0x00] = .reject .badStart ∧
    decode .inbound [0x62, 0x02, 0x10, 0x20] = .reject .truncated ∧
    decode .inbound [] = .reject .truncated := by decide

/-- The table's numbering: `match` 0x61013300 and 0x61010000 have 32 bits, 0x6102310000 has 40; the inbound
rows have 8, and the bytes above them are 0 (log 6). -/
theorem test_decode_table_words :
    decodeTableWord 32 0x61013300 = some .lightsOff ∧
    decodeTableWord 40 0x6102310000 = some (.lightA 0) ∧
    decodeTableWord 32 0x61010000 = some (.cmdShort 0) ∧
    decodeTableWord 8 0x62 = some (.rxFramePrimary .zeroSize) ∧
    decodeTableWord 8 0x61 = some (.rxFrameLegacy .zeroSize) ∧
    decodeTableWord 8 0x60 = none := by decide

/-- A worked table word runs as the first instruction after reset. -/
theorem test_fetch_runs_after_reset :
    ends (step (State.reset.withFetchWord 32 0x61013895))
      (State.reset.emit (.encoded [0x61, 0x01, 0x38, 0x9A] true true)) = true := by decide

/-! ### The encoder -/

/-- ENC-18: the byte passes through and the sum wraps. -/
theorem test_lightA : ends (exec (.lightA 0xFF) connected)
    (connected.emit (.encoded [0x61, 0x02, 0x31, 0xFF, 0x93] true true)) = true := by decide

/-- ENC-4. -/
theorem test_lightB : ends (exec (.lightB 0) connected)
    (connected.emit (.encoded [0x61, 0x02, 0x32, 0x00, 0x95] true true)) = true := by decide

/-- ENC-5. -/
theorem test_lightsOff : ends (exec .lightsOff connected)
    (connected.emit (.encoded [0x61, 0x01, 0x33, 0x95] true true)) = true := by decide

/-- ENC-6. -/
theorem test_beaconOn : ends (exec .beaconOn connected)
    (connected.emit (.encoded [0x61, 0x01, 0x34, 0x96] true true)) = true := by decide

/-- ENC-8. -/
theorem test_switch : ends (exec (.switch 0) connected)
    (connected.emit (.encoded [0x61, 0x02, 0x34, 0x00, 0x97] true true)) = true := by decide

/-- ENC-9. -/
theorem test_beaconOff : ends (exec .beaconOff connected)
    (connected.emit (.encoded [0x61, 0x01, 0x35, 0x97] true true)) = true := by decide

/-- ENC-10. -/
theorem test_releaseSafe : ends (exec .releaseSafe connected)
    (connected.emit (.encoded [0x61, 0x01, 0x37, 0x99] true true)) = true := by decide

/-- ENC-11, from the reset state: the encoder is taken in every state (R89). -/
theorem test_releaseArm : ends (exec .releaseArm State.reset)
    (State.reset.emit (.encoded [0x61, 0x01, 0x38, 0x9A] true true)) = true := by decide

/-- ENC-12 (L1-6), while a reconnect is outstanding: the elapsed time stays. -/
theorem test_releaseFire : ends (exec .releaseFire waiting)
    (waiting.emit (.encoded [0x61, 0x01, 0x39, 0x9B] true true)) = true := by decide

/-- ENC-21: the sum is 0. -/
theorem test_cmdShort : ends (exec (.cmdShort 0x9E) connected)
    (connected.emit (.encoded [0x61, 0x01, 0x9E, 0x00] false false)) = true := by decide

/-- ENC-20: the sum wraps to 0x61; and ENC-13: a listed id in the wrong form. -/
theorem test_cmdLong :
    ends (exec (.cmdLong 0xFF 0xFF) connected)
      (connected.emit (.encoded [0x61, 0x02, 0xFF, 0xFF, 0x61] false false)) = true ∧
    ends (exec (.cmdLong 0x39 1) connected)
      (connected.emit (.encoded [0x61, 0x02, 0x39, 0x01, 0x9D] true false)) = true := by decide

/-! ### The decoder -/

/-- DEC-4: the sum wraps and the checksum byte equals a start byte. -/
theorem test_rxFramePrimary : ends (exec (.rxFramePrimary (.sized [0xFF, 0xFF] 0x62)) connected)
    { connected with
      fd := { Fd.reset [(0, 0xFF), (1, 0xFF)] with outLen := 2, outChk := 0x62 }
      outs := [.frameOut [0xFF, 0xFF] 0x62 true] } = true := by decide

/-- DEC-5: the stale payload stays in the buffer, the latches and the elapsed time are kept (DEC-11). -/
theorem test_rxFramePrimary_mismatch :
    ends (exec (.rxFramePrimary (.sized [0xFF, 0xFF] 0x61)) (withWd .idle false 1 3))
      { withWd .idle false 1 3 with
        fd := Fd.reset [(0, 0xFF), (1, 0xFF)]
        outs := [.status (.checksumMismatch 0x61 0x62)] } = true := by decide

/-- DEC-2, with three ticks gone: a valid frame is liveness (DEC-12). -/
theorem test_rxFrameLegacy :
    ends (exec (.rxFrameLegacy (.sized [0x41] 0xA3)) (withWd .idle false 1 3))
      { withWd .idle false 1 0 with
        fd := { Fd.reset [(0, 0x41)] with outLen := 1, outChk := 0xA3 }
        outs := [.frameOut [0x41] 0xA3 true] } = true := by decide

/-- L1-3 with the other start byte, and DEC-18: from the reset state every byte is dropped. -/
theorem test_rxFrameLegacy_zero_and_dropped :
    ends (exec (.rxFrameLegacy .zeroSize) connected) { connected with outs := [.status .zeroSize] } =
      true ∧
    ends (exec (.rxFrameLegacy (.sized [0x41] 0xA3)) State.reset) State.reset = true := by decide

/-- The byte steps of PROG-1: from DEC-15 over DEC-16 and DEC-17 to the frame. -/
theorem test_rxByte_steps :
    ends (takeInput (.rxByte 0x62) connected) inSize = true ∧
    ends (takeInput (.rxByte 0x20) inPayload) inChecksum = true ∧
    ends (takeInput (.rxByte 0x94) inChecksum)
      { afterFrame with outs := [.frameOut [0x10, 0x20] 0x94 true] } = true := by decide

/-- DEC-13: 00 is noise while idle and a zero size after the start byte. -/
theorem test_rxByte_zero :
    ends (takeInput (.rxByte 0) connected) connected = true ∧
    ends (takeInput (.rxByte 0) inSize) { connected with outs := [.status .zeroSize] } = true := by
  decide

/-- DEC-9 in small: a start byte's value after the start byte is a size (R83). -/
theorem test_rxByte_marker_is_size :
    ends (takeInput (.rxByte 0x62) inSize) (withFd .awaitingPayload 0x62 0 0xC4 []) = true := by decide

/-- The port view of DEC-1: a written cell is read, and `BufRead(2)` faults (I1). -/
theorem test_bufRead :
    ends (takeInput (.bufRead 1) afterFrame) { afterFrame with outs := [.readData 0x20] } = true ∧
    faults (takeInput (.bufRead 2) afterFrame) .unwrittenCell = true := by decide

/-! ### The watchdog and reset -/

/-- WD-1 and WD-2. -/
theorem test_tick_boot :
    ends (takeInput .tick State.reset) (withWd .idle true 1 1) = true ∧
    ends (takeInput .tick (withWd .idle true 1 1))
      { withWd .reconnecting true 0 2 with outs := [.reconnectReq false] } = true := by decide

/-- WD-4 and WD-5: the check at 4 stalls, the check at 2 does not, and neither does one at 3 (the
comparison is strict). -/
theorem test_tick_stall :
    ends (takeInput .tick (withWd .idle false 1 3))
      { withWd .reconnecting false 0 4 with outs := [.status (.stall 4), .reconnectReq true] } = true ∧
    ends (takeInput .tick (withWd .idle false 1 1)) (withWd .idle false 0 2) = true ∧
    ends (takeInput .tick (withWd .idle false 1 2)) (withWd .idle false 0 3) = true := by decide

/-- WD-12: with `ELAPSED_W = 2` the count saturates at 3. -/
theorem test_tick_saturates :
    let c : Config := { stallThreshold := 2, checkPeriod := 1, elapsedW := 2 }
    ends (takeInput .tick { withWd .reconnecting false 0 3 with cfg := c })
      { withWd .reconnecting false 0 3 with cfg := c } = true := by decide

/-- WD-3, WD-7 and WD-9. -/
theorem test_xportResult :
    ends (takeInput (.xportResult true) (withWd .reconnecting true 0 2)) connected = true ∧
    ends (takeInput (.xportResult false) waiting)
      { withWd .idle true 0 6 with outs := [.status .acquireFail] } = true ∧
    ends (takeInput (.xportResult true) connected) connected = true := by decide

/-- RST-1 and RST-2: reset keeps the buffer and forgets the outstanding request. -/
theorem test_reset :
    ends (takeInput .reset inPayload) { State.reset with fd := Fd.reset [(0, 0x10)] } = true ∧
    ends (takeInput .reset waiting) State.reset = true := by decide

/-! ### One clock -/

/-- CLK-1: the byte completes the frame before the tick's check reads the elapsed time. -/
theorem test_clock_byte_before_tick :
    (lastPorts (clock { noInputs with rxValid := true, rxByte := 0x63, tick := true }
      { withFd .awaitingChecksum 1 1 0x63 [(0, 0)] with wd := (withWd .idle false 1 3).wd })).map
      (fun o => (o.frameValid, o.outLen, o.outChk, o.reconnectReq, o.wdStatusValid, o.wdStatusCode)) =
    some (true, 1, 0x63, false, false, 0) := by decide

/-- CLK-2: the answer opens the gate for the byte of the same clock. -/
theorem test_clock_answer_before_byte :
    (lastPorts (clock { noInputs with xportDone := true, xportOk := true, rxValid := true, rxByte := 0x62 }
      waiting)).map (fun o => (o.rxReady, o.frameValid)) = some (true, false) := by decide

/-- A mismatch and a stall fall in one clock, each on its own unit's port (R143). -/
theorem test_clock_both_statuses :
    (lastPorts (clock { noInputs with rxValid := true, rxByte := 0x95, tick := true }
      { inChecksum with wd := (withWd .idle false 1 3).wd })).map
      (fun o => ((o.fdStatusValid, o.fdStatusCode, o.fdStatusRx, o.fdStatusCalc),
        (o.wdStatusValid, o.wdStatusCode, o.wdStatusElapsed))) =
    some ((true, 2, 0x95, 0x94), (true, 3, 4)) := by decide

/-- ENC-15 on the ports: byte 0 in bits 39..32, the bytes beyond the frame 0 (R143). -/
theorem test_clock_encoder_ports :
    (lastPorts (clock noInputs connected)).map (fun o => (o.encLen, o.encFrame, o.encKnown, o.encFormOk)) =
      some (4, 0x6101309200, false, false) := by decide

/-! ### Witnesses: for each obligation with hypotheses, states and operands that meet them together -/

theorem connected_inv : connected.Inv :=
  ⟨by decide, by decide, by decide, ⟨rfl, rfl, rfl⟩, trivial, by decide, by decide, by decide⟩

theorem inSize_inv : inSize.Inv :=
  ⟨by decide, by decide, by decide, ⟨rfl, rfl⟩, rfl, by decide, by decide, by decide⟩

theorem inPayload_inv : inPayload.Inv :=
  ⟨by decide, by decide, by decide, ⟨by decide, by decide⟩, ⟨0x62, [0x10], rfl, by decide, by decide⟩,
    by decide, by decide, by decide⟩

theorem inChecksum_inv : inChecksum.Inv :=
  ⟨by decide, by decide, by decide, ⟨by decide, rfl⟩, ⟨0x62, [0x10, 0x20], rfl, by decide, by decide⟩,
    by decide, by decide, by decide⟩

theorem afterFrame_inv : afterFrame.Inv :=
  ⟨by decide, by decide, by decide, ⟨rfl, rfl, rfl⟩, trivial, by decide, by decide, by decide⟩

theorem waiting_inv : waiting.Inv :=
  ⟨by decide, by decide, by decide, ⟨rfl, rfl, rfl⟩, trivial, by decide, by decide, by decide⟩

theorem witness_DecodeOfEncode :
    (Instr.switch 0xFF).wf = true ∧ (Instr.cmdShort 0x34).wf = false ∧ (Instr.cmdShort 0x36).wf = true ∧
    (Instr.cmdLong 0x33 0).wf = true ∧ (Instr.rxFramePrimary .zeroSize).wf = true ∧
    (Instr.rxFrameLegacy (.sized [0] 0)).wf = true := by decide

theorem witness_DecodeOfEncode_longest :
    (Instr.rxFramePrimary (.sized (List.replicate 255 0x62) 0)).wf = true := by
  simp only [Instr.wf, RxTail.wf, List.length_replicate]
  decide

theorem witness_DecodedFrameReencodes :
    decode .inbound [0x61, 0x00, 0x07] = .ok (.rxFrameLegacy .zeroSize) [0x07] ∧
    decode .outbound [0x61, 0x01, 0x33, 0x00, 0x07] = .ok .lightsOff [0x07] := by decide

theorem witness_FrameLengths :
    Instr.lightsOff.direction = .outbound ∧ (Instr.cmdLong 0 0).direction = .outbound ∧
    (Instr.rxFramePrimary (.sized [0] 0)).wf = true := by decide

theorem witness_FrameLengths_longest :
    (Instr.rxFrameLegacy (.sized (List.replicate 255 0) 0)).wf = true := by
  simp only [Instr.wf, RxTail.wf, List.length_replicate]
  decide

theorem witness_StepTakesFirstItem :
    connected.cfg.valid = true ∧ connected.pending = [] ∧
    (offering connected (.event .tick)).pending = .event .tick :: [] ∧
    (offering connected (.clock noInputs)).pending = .clock noInputs :: [] := by decide

theorem witness_StepRunsDecodedInstruction :
    connected.cfg.valid = true ∧
    (offering connected (.frame .inbound [0x62, 0x00])).pending = .frame .inbound [0x62, 0x00] :: [] ∧
    decode .inbound [0x62, 0x00] = .ok (.rxFramePrimary .zeroSize) [] ∧
    (offering connected (.event (.encode 0x34 none))).pending = .event (.encode 0x34 none) :: [] ∧
    decode .outbound (encodeFrame 0x34 none) = .ok .beaconOn [] := by decide

theorem witness_FetchWordRunsDecodedInstruction :
    State.reset.cfg.valid = true ∧ decodeTableWord 40 0x61023401FF = some (.switch 1) := by decide

theorem witness_BadConfigurationRefused :
    ({ stallThreshold := 3, checkPeriod := 0, elapsedW := 8 } : Config).valid = false ∧
    ({ stallThreshold := 254, checkPeriod := 1, elapsedW := 8 } : Config).valid = true ∧
    ({ stallThreshold := 255, checkPeriod := 1, elapsedW := 8 } : Config).valid = false := by decide

theorem witness_ConfigurationNeverChanges :
    step (offering connected (.event .reset)) = .next State.reset := rfl

theorem witness_EncodeRequestsDoNotInterfere :
    runInputs [.encode 0 none, .rxByte 0x62] connected =
      .next { inSize with outs := [.encoded [0x61, 0x01, 0x00, 0x62] false false] } := rfl

theorem witness_StartMarkerOpensAttempt :
    connected.rxEnable = true ∧ connected.fd.state = .awaitingStart ∧ (0x62 : Byte) = 0x62 ∧
      (0x61 : Byte) = 0x61 := by decide

theorem witness_NoiseByteIgnored :
    connected.rxEnable = true ∧ connected.fd.state = .awaitingStart ∧ (0x60 : Byte) ≠ 0x62 ∧
      (0x60 : Byte) ≠ 0x61 ∧ (0x63 : Byte) ≠ 0x62 ∧ (0x63 : Byte) ≠ 0x61 := by decide

theorem witness_ZeroSizeReportedAndRestarts :
    inSize.rxEnable = true ∧ inSize.fd.state = .awaitingSize := by decide

theorem witness_SizeByteRecorded :
    inSize.rxEnable = true ∧ inSize.fd.state = .awaitingSize ∧ (1 : Byte) ≠ 0 ∧ (0xFF : Byte) ≠ 0 := by
  decide

/-- The last payload byte, and one that is not. -/
theorem witness_PayloadByteStored :
    inPayload.rxEnable = true ∧ inPayload.fd.state = .awaitingPayload ∧
    (withFd .awaitingPayload 2 0 0x64 []).rxEnable = true ∧
    (withFd .awaitingPayload 2 0 0x64 []).fd.state = .awaitingPayload := by decide

theorem witness_MatchingChecksumEmitsFrame :
    inChecksum.rxEnable = true ∧ inChecksum.fd.state = .awaitingChecksum ∧
    (0x94 : Byte) = inChecksum.fd.chk ∧ ([0x10, 0x20] : List Byte).length = inChecksum.fd.size.toNat ∧
    ∀ k (h : k < ([0x10, 0x20] : List Byte).length),
      inChecksum.fd.buf.read k = some ([0x10, 0x20] : List Byte)[k] := by decide

theorem witness_MismatchDropsFrame :
    inChecksum.rxEnable = true ∧ inChecksum.fd.state = .awaitingChecksum ∧
    (0x95 : Byte) ≠ inChecksum.fd.chk := by decide

/-- The gate closed by reset, by a request and by a failure; opened by an answer; closed by a check. -/
theorem witness_ByteGate :
    State.reset.rxEnable = false ∧ waiting.rxEnable = false ∧ connected.rxEnable = true ∧
    takeInput (.xportResult true) waiting = .next connected ∧
    takeInput .reset connected = .next State.reset ∧
    takeInput .tick (withWd .idle false 1 3) =
      .next { withWd .reconnecting false 0 4 with outs := [.status (.stall 4), .reconnectReq true] } ∧
    (withWd .idle false 1 3).rxEnable = true ∧
    (withWd .reconnecting false 0 4).rxEnable = false :=
  ⟨rfl, rfl, rfl, rfl, rfl, rfl, rfl, rfl⟩

theorem witness_WholeFrameFromIdle :
    connected.rxEnable = true ∧ connected.fd.state = .awaitingStart ∧ 1 ≤ ([0x41] : List Byte).length ∧
    (List.replicate 255 (0x62 : Byte)).length ≤ 255 ∧
    Instr.rxFrameLegacy (.sized [0x41] 0xA3) = .rxFrameLegacy (.sized [0x41] 0xA3) :=
  ⟨rfl, rfl, by decide, Nat.le_of_eq List.length_replicate, rfl⟩

/-- Ticks, a request, an unasked answer and a read between the bytes of `62 01 41 A4`, and none. -/
theorem witness_FrameAmongOtherEvents :
    afterFrame.fd.state = .awaitingStart ∧ afterFrame.wd.elapsed ≤ 2 ^ afterFrame.cfg.elapsedW - 1 ∧
    1 ≤ ([0x41] : List Byte).length ∧ ([0x41] : List Byte).length ≤ 255 ∧
    offeredBytes [.tick, .rxByte 0x62, .encode 0x39 none, .rxByte 1, .xportResult true, .bufRead 0,
      .rxByte 0x41, .tick] = 0x62 :: BitVec.ofNat 8 ([0x41] : List Byte).length :: [0x41] ∧
    gateOpenAlong [.tick, .rxByte 0x62, .encode 0x39 none, .rxByte 1, .xportResult true, .bufRead 0,
      .rxByte 0x41, .tick] afterFrame = true ∧
    gateOpenAlong [.rxByte 0x61, .rxByte 1, .rxByte 0x41] connected = true := by decide

/-- The longest payload. -/
theorem witness_FrameAmongOtherEvents_longest :
    offeredBytes (([0x62, 0xFF] ++ List.replicate 255 0).map Input.rxByte) =
      0x62 :: BitVec.ofNat 8 (List.replicate 255 (0 : Byte)).length :: List.replicate 255 0 ∧
    gateOpenAlong (([0x62, 0xFF] ++ List.replicate 255 0).map Input.rxByte) connected = true := by
  decide +kernel

theorem witness_ZeroSizeFrameFromIdle :
    connected.rxEnable = true ∧ connected.fd.state = .awaitingStart := by decide

theorem witness_InboundRowIsItsByteSteps :
    (Instr.rxFramePrimary .zeroSize).direction = .inbound ∧
    State.cfg { connected with pending := [.event (.rxByte 0x62), .event (.rxByte 0), .event .tick] } =
      connected.cfg ∧ connected.cfg.valid = true ∧
    ([.event (.rxByte 0x62), .event (.rxByte 0), .event .tick] : List Item) =
      (encode (.rxFramePrimary .zeroSize)).map (fun b => Item.event (.rxByte b)) ++ [.event .tick] := by
  decide

/-- Mid-frame and gated states meet the hypothesis as well as idle ones. -/
theorem witness_InboundRowsComplete :
    connected.Inv ∧ inSize.Inv ∧ inPayload.Inv ∧ inChecksum.Inv ∧ waiting.Inv :=
  ⟨connected_inv, inSize_inv, inPayload_inv, inChecksum_inv, waiting_inv⟩

theorem witness_NoiseRunChangesNothing :
    connected.fd.state = .awaitingStart ∧
    ∀ b ∈ ([0x7E, 0x00, 0x60, 0x63] : List Byte), b ≠ 0x61 ∧ b ≠ 0x62 := by decide

theorem witness_MarkerOnlyWhileIdle :
    takeInput (.rxByte 0x62) connected = .next inSize ∧ inSize.fd.state = .awaitingSize ∧
    takeInput (.encode 0x33 none) inSize =
      .next { inSize with outs := [.encoded [0x61, 0x01, 0x33, 0x95] true true] } :=
  ⟨rfl, rfl, rfl⟩

/-- One witness per decoder state; the bounds are 0, 257, 2 and 1. -/
theorem witness_AttemptEndsWithinBound :
    connected.Inv ∧ connected.rxEnable = true ∧ inSize.Inv ∧ inSize.rxEnable = true ∧
    (List.replicate 257 (0xFF : Byte)).length = 257 ∧
    inPayload.Inv ∧ inPayload.rxEnable = true ∧
    ([0, 0] : List Byte).length = inPayload.fd.size.toNat - inPayload.fd.cnt.toNat + 1 ∧
    inChecksum.Inv ∧ inChecksum.rxEnable = true :=
  ⟨connected_inv, rfl, inSize_inv, rfl, List.length_replicate, inPayload_inv, rfl, by decide, inChecksum_inv, rfl⟩

theorem witness_FrameCellsStandForTheirWindow :
    afterFrame.fd.state = .awaitingStart ∧ ([0x62, 0x02] : List Byte).length < 0 + 3 ∧
    rxBytes [0x62, 0x02] afterFrame =
      .next { afterFrame with
        fd := { afterFrame.fd with state := .awaitingPayload, size := 2, chk := 0x64 } } :=
  ⟨rfl, by decide, rfl⟩

theorem witness_LatchesHoldUntilNextFrame :
    takeInput (.rxByte 0x94) inChecksum =
      .next { afterFrame with outs := [.frameOut [0x10, 0x20] 0x94 true] } ∧
    takeInput (.rxByte 0x62) connected = .next inSize ∧ Input.rxByte 0x94 ≠ .reset :=
  ⟨rfl, rfl, by decide⟩

theorem witness_EncodedFramesLoopBack :
    connected.rxEnable = true ∧ connected.fd.state = .awaitingStart := by decide

theorem witness_BufferRead :
    inPayload.fd.buf.read (BitVec.toNat (0 : Byte)) = some 0x10 ∧
    inPayload.fd.buf.read (BitVec.toNat (1 : Byte)) = none ∧
    inPayload.fd.buf.read (BitVec.toNat (255 : Byte)) = none := by decide

theorem witness_OnlyPayloadBytesWriteBuffer :
    takeInput (.rxByte 0x20) inPayload = .next inChecksum := rfl

theorem witness_PortCellsAreReadable :
    afterFrame.Inv ∧ BitVec.toNat (1 : Byte) < afterFrame.fd.outLen.toNat :=
  ⟨afterFrame_inv, by decide⟩

/-- One state per clause, at the threshold and one above it; the last is saturated. -/
theorem witness_TickCountsAndChecks :
    (withWd .idle false 0 0).wd.checkDiv + 1 ≠ connected.cfg.checkPeriod ∧
    (withWd .reconnecting false 1 5).wd.checkDiv + 1 = connected.cfg.checkPeriod ∧
    (withWd .idle true 1 1).wd.linkDown = true ∧
    (withWd .idle false 1 2).wd.elapsed + 1 ≤ connected.cfg.stallThreshold ∧
    connected.cfg.stallThreshold < (withWd .idle false 1 3).wd.elapsed + 1 ∧
    (withWd .idle false 1 255).wd.elapsed = 2 ^ connected.cfg.elapsedW - 1 ∧
    connected.cfg.stallThreshold < (withWd .idle false 1 255).wd.elapsed := by decide

theorem witness_TransportAnswers :
    waiting.wd.state = .reconnecting ∧ connected.wd.state = .idle := by decide

theorem witness_OnlyLivenessClearsElapsed :
    Input.rxByte 0x94 ≠ .reset ∧ (Input.rxByte 0x94).isLiveness inChecksum = true ∧
    takeInput (.rxByte 0x94) inChecksum =
      .next { afterFrame with outs := [.frameOut [0x10, 0x20] 0x94 true] } ∧
    (Input.xportResult true).isLiveness waiting = true ∧
    takeInput (.xportResult true) waiting = .next connected ∧
    (Input.xportResult true).isLiveness connected = false ∧
    takeInput (.xportResult true) connected = .next connected :=
  ⟨by decide, rfl, rfl, rfl, rfl, rfl, rfl⟩

theorem witness_ElapsedIsTimeSinceLiveness :
    Input.reset ∉ [Input.tick, .tick] ∧ connected.wd.elapsed = 0 ∧
    runInputs [.tick, .tick] connected = .next (withWd .idle false 0 2) :=
  ⟨by decide, rfl, rfl⟩

theorem witness_UnitsWriteTheirOwnRegisters :
    takeInput .tick State.reset = .next (withWd .idle true 1 1) ∧
    takeInput (.xportResult true) waiting = .next connected ∧
    takeInput (.rxByte 0x62) connected = .next inSize ∧
    takeInput (.encode 0 none) connected =
      .next { connected with outs := [.encoded [0x61, 0x01, 0x00, 0x62] false false] } ∧
    takeInput (.bufRead 0) inPayload = .next { inPayload with outs := [.readData 0x10] } :=
  ⟨rfl, rfl, rfl, rfl, rfl⟩

/-- After a success the request comes at the 4th tick (WD-4), after a failure at the 2nd (WD-8). -/
theorem witness_ReconnectSpacing :
    waiting.cfg.valid = true ∧ waiting.wd.state = .reconnecting ∧
    waiting.wd.checkDiv < waiting.cfg.checkPeriod ∧
    waiting.wd.elapsed ≤ 2 ^ waiting.cfg.elapsedW - 1 ∧
    takeInput (.xportResult true) waiting = .next connected ∧
    runInputs [.tick, .rxByte 0, .tick, .tick, .tick] connected =
      .next { withWd .reconnecting false 0 4 with outs := [.status (.stall 4), .reconnectReq true] } ∧
    takeInput (.xportResult false) waiting =
      .next { withWd .idle true 0 6 with outs := [.status .acquireFail] } ∧
    runInputs [.tick, .tick] (withWd .idle true 0 6) =
      .next { withWd .reconnecting true 0 8 with outs := [.reconnectReq false] } :=
  ⟨rfl, rfl, by decide, by decide, rfl, rfl, rfl, rfl⟩

theorem witness_OneReconnectInFlight :
    waiting.wd.state = .reconnecting ∧
    (∀ e ∈ [Input.tick, .rxByte 0x62], e ≠ Input.reset ∧ ∀ ok, e ≠ .xportResult ok) ∧
    runInputs [.tick, .rxByte 0x62] waiting = .next (withWd .reconnecting false 1 7) :=
  ⟨rfl, by decide, rfl⟩

theorem witness_OnlyChecksRequestReconnect :
    takeInput .tick (withWd .idle true 1 1) =
      .next { withWd .reconnecting true 0 2 with outs := [.reconnectReq false] } ∧
    Output.reconnectReq false ∈ [Output.reconnectReq false] ∧
    takeInput .tick (withWd .idle false 1 3) =
      .next { withWd .reconnecting false 0 4 with outs := [.status (.stall 4), .reconnectReq true] } ∧
    Output.reconnectReq true ∈ [Output.status (.stall 4), .reconnectReq true] :=
  ⟨rfl, by decide, rfl, by decide⟩

theorem witness_BootSequence :
    State.reset.cfg.valid = true ∧ State.reset.wd = Wd.reset := by decide

theorem witness_EventsOfOneStep :
    takeInput (.rxByte 0) inSize = .next { connected with outs := [.status .zeroSize] } ∧
    takeInput .tick (withWd .idle true 1 1) =
      .next { withWd .reconnecting true 0 2 with outs := [.reconnectReq false] } ∧
    takeInput (.xportResult false) waiting =
      .next { withWd .idle true 0 6 with outs := [.status .acquireFail] } ∧
    takeInput (.encode 0 none) connected =
      .next { connected with outs := [.encoded [0x61, 0x01, 0x00, 0x62] false false] } ∧
    takeInput (.bufRead 0) inPayload = .next { inPayload with outs := [.readData 0x10] } ∧
    takeInput .reset waiting = .next State.reset :=
  ⟨rfl, rfl, rfl, rfl, rfl, rfl⟩

theorem witness_NothingIsFatal :
    inPayload.Inv ∧ (inPayload.fd.buf.read (BitVec.toNat (0 : Byte))).isSome = true :=
  ⟨inPayload_inv, by decide⟩

theorem witness_InvariantAtReset :
    State.resetConfig.valid = true ∧
    ({ stallThreshold := 0, checkPeriod := 1, elapsedW := 1 } : Config).valid = true := by decide

theorem witness_StepKeepsInvariant :
    State.Inv { inChecksum with pending := [.event (.rxByte 0x94)] } ∧
    step { inChecksum with pending := [.event (.rxByte 0x94)] } =
      .next { afterFrame with outs := [.frameOut [0x10, 0x20] 0x94 true] } :=
  ⟨⟨inChecksum_inv.config, inChecksum_inv.memory, inChecksum_inv.lastCell, inChecksum_inv.phase,
    inChecksum_inv.checksum, inChecksum_inv.port, inChecksum_inv.divider, inChecksum_inv.elapsed⟩, rfl⟩

/-- A clock with all three events. -/
theorem witness_ClockIsItsEventsInOrder :
    runInputs (ClockIn.events { noInputs with
        xportDone := true, xportOk := true, rxValid := true, rxByte := 0x62, tick := true })
      { waiting with outs := [] } = .next { inSize with wd := (withWd .idle false 1 1).wd } := rfl

/-- A clock's premises are met by the states its own definition names: here a zero size. -/
theorem witness_ClockPorts :
    runInputs (ClockIn.events { noInputs with rxValid := true }) { inSize with outs := [] } =
      .next { connected with outs := [.status .zeroSize] } ∧
    clock { noInputs with rxValid := true } inSize =
      .next (closeClock { noInputs with rxValid := true } inSize true
        { connected with outs := [.status .zeroSize] }) ∧
    (closeClock { noInputs with rxValid := true } inSize true
        { connected with outs := [.status .zeroSize] }).outs =
      inSize.outs ++ [.status .zeroSize] ++
        [.ports (clockPorts { noInputs with rxValid := true } inSize true
          { connected with outs := [.status .zeroSize] })] :=
  ⟨rfl, rfl, rfl⟩

/-- The events of `witness_ClockPorts_both`. -/
def bothEvents : List Output :=
  [.status (.checksumMismatch 0x95 0x94), .status (.stall 4), .reconnectReq true]

/-- A mismatch and a stall with its request in one clock: both status ports are up. -/
theorem witness_ClockPorts_both :
    let p : ClockIn := { noInputs with rxValid := true, rxByte := 0x95, tick := true }
    let s : State := { inChecksum with wd := (withWd .idle false 1 3).wd }
    let u : State :=
      { inChecksum with
        fd := Fd.reset inChecksum.fd.buf
        wd := (withWd .reconnecting false 0 4).wd
        outs := bothEvents }
    runInputs p.events { s with outs := [] } = .next u ∧
    clock p s = .next (closeClock p s true u) ∧
    (closeClock p s true u).outs = s.outs ++ u.outs ++ [.ports (clockPorts p s true u)] ∧
    .status (.checksumMismatch 0x95 0x94) ∈ u.outs ∧ .status (.stall 4) ∈ u.outs ∧
    .reconnectReq true ∈ u.outs :=
  ⟨rfl, rfl, rfl, by decide, by decide, by decide⟩

/-- A failed answer alone: the watchdog's port is up, the decoder's is not; and a valid frame. -/
theorem witness_ClockPorts_single :
    runInputs (ClockIn.events { noInputs with xportDone := true }) { waiting with outs := [] } =
      .next { withWd .idle true 0 6 with outs := [.status .acquireFail] } ∧
    clock { noInputs with xportDone := true } waiting =
      .next (closeClock { noInputs with xportDone := true } waiting false
        { withWd .idle true 0 6 with outs := [.status .acquireFail] }) ∧
    runInputs (ClockIn.events { noInputs with rxValid := true, rxByte := 0x94 })
        { inChecksum with outs := [] } =
      .next { afterFrame with outs := [.frameOut [0x10, 0x20] 0x94 true] } ∧
    clock { noInputs with rxValid := true, rxByte := 0x94 } inChecksum =
      .next (closeClock { noInputs with rxValid := true, rxByte := 0x94 } inChecksum true
        { afterFrame with outs := [.frameOut [0x10, 0x20] 0x94 true] }) :=
  ⟨rfl, rfl, rfl, rfl⟩

end Sys2Proof.Tests
end

section
/-! SUPPORT. What a step does with the first offered item (R17, R18), and how many bytes of a frame the
decoder reads (R56). -/

namespace Sys2Proof.Machine

/-! ### The step's three branches -/

theorem step_of_not_valid {s : State} (h : s.cfg.valid = false) : step s = .refused .badConfig := by
  simp [step, stepPending, h]

theorem step_of_nil {s : State} (hv : s.cfg.valid = true) (hp : s.pending = []) :
    step s = .next s := by
  simp [step, stepPending, hv, hp]

theorem step_of_cons {s : State} {it : Item} {rest : List Item} (hv : s.cfg.valid = true)
    (hp : s.pending = it :: rest) : step s = takeItem it { s with pending := rest } := by
  simp [step, stepPending, hv, hp]

theorem takeFrame_of_decode {d : Direction} {bytes : List Byte} {i : Instr}
    (h : decode d bytes = .ok i []) (s : State) : takeFrame d bytes s = exec i s := by
  simp [takeFrame, h]

/-! ### The decoder reads one frame -/

theorem decodeOutbound_length {bs rest : List Byte} {i : Instr}
    (h : decodeOutbound bs = .ok i rest) : bs.length = frameLength .outbound bs + rest.length := by
  unfold decodeOutbound at h
  split at h
  · split at h
    · split at h
      · next hsize =>
        split at h
        · cases h
          simp +arith [frameLength, hsize]
        · cases h
      · split at h
        · next hsize =>
          split at h
          · cases h
            simp +arith [frameLength, hsize]
          · cases h
        · cases h
    · cases h
  · cases h

theorem decodeTail_length {mk : RxTail → Instr} {bs rest : List Byte} {i : Instr} (st : Byte)
    (h : decodeTail mk bs = .ok i rest) :
    (st :: bs).length = frameLength .inbound (st :: bs) + rest.length := by
  unfold decodeTail at h
  split at h
  · next sz tail =>
    split at h
    · next hzero =>
      cases h
      simp +arith [frameLength, hzero]
    · next hsize =>
      split at h
      · next c after hdrop =>
        cases h
        have hlen := congrArg List.length hdrop
        simp only [List.length_drop, List.length_cons] at hlen
        simp only [frameLength, hsize, if_false, List.length_cons]
        omega
      · cases h
  · cases h

theorem decodeInbound_length {bs rest : List Byte} {i : Instr}
    (h : decodeInbound bs = .ok i rest) : bs.length = frameLength .inbound bs + rest.length := by
  unfold decodeInbound at h
  split at h
  · next st tail =>
    split at h
    · exact decodeTail_length st h
    · split at h
      · exact decodeTail_length st h
      · cases h
  · cases h

/-- What the decoder accepts is the frame at the front, of the length R56 gives, and the bytes after it. -/
theorem decode_length {d : Direction} {bs rest : List Byte} {i : Instr}
    (h : decode d bs = .ok i rest) : bs.length = frameLength d bs + rest.length := by
  cases d with
  | outbound => exact decodeOutbound_length h
  | inbound => exact decodeInbound_length h

/-- A list that reaches its size byte has a frame of at least those two bytes. -/
theorem two_le_frameLength (d : Direction) (st sz : Byte) (bs : List Byte) :
    2 ≤ frameLength d (st :: sz :: bs) := by
  cases d with
  | outbound => simp [frameLength]
  | inbound =>
    simp only [frameLength]
    split <;> omega

/-- The length is read off the size byte, so cutting a list to one frame keeps it. -/
theorem frameLength_take (d : Direction) (bs : List Byte) :
    frameLength d (bs.take (frameLength d bs)) = frameLength d bs := by
  match bs with
  | [] => rfl
  | [_] => rfl
  | st :: sz :: bs =>
    obtain ⟨n, hn⟩ := Nat.exists_eq_add_of_le' (two_le_frameLength d st sz bs)
    have htake : (st :: sz :: bs).take (n + 2) = st :: sz :: bs.take n := rfl
    rw [hn, htake, ← hn]
    rfl

/-- A table word's frame is cut to its own length, so nothing is left after the instruction. -/
theorem decode_tableFrame {nbits w : Nat} {i : Instr} (h : decodeTableWord nbits w = some i) :
    decode (tableDirection nbits) (tableFrame nbits w) = .ok i [] := by
  unfold decodeTableWord at h
  split at h
  · next j rest hdec =>
    cases h
    have hlen := decode_length hdec
    have hcut : (tableFrame nbits w).length ≤
        frameLength (tableDirection nbits) (tableFrame nbits w) := by
      simp only [tableFrame, frameLength_take]
      exact List.length_take_le _ _
    have hrest : rest = [] := List.eq_nil_of_length_eq_zero (by omega)
    rw [hdec, hrest]
  · cases h

/-! ### The obligations -/

/-- Settles O7: each clause is one branch of the step. -/
theorem stepTakesFirstItem : Obligations.StepTakesFirstItem :=
  fun _ hv => ⟨step_of_nil hv, fun _ _ => step_of_cons hv, fun _ _ => step_of_cons hv⟩

/-- Settles O9: the offered item is the word's frame, which decodes with nothing left over. -/
theorem fetchWordRunsDecodedInstruction : Obligations.FetchWordRunsDecodedInstruction := by
  intro s nbits w i hv hword
  calc step (s.withFetchWord nbits w)
      = takeItem (tableItem nbits w) s := step_of_cons (s := s.withFetchWord nbits w) hv rfl
    _ = takeFrame (tableDirection nbits) (tableFrame nbits w) s := rfl
    _ = exec i s := takeFrame_of_decode (decode_tableFrame hword) s

/-- Settles O10: R13 and R14 with the largest elapsed value written out, and the refusing branch. -/
theorem badConfigurationRefused : Obligations.BadConfigurationRefused :=
  fun s => ⟨valid_iff s.cfg, step_of_not_valid⟩

end Sys2Proof.Machine
end

section
/-! SUPPORT. What the step keeps of the state (`10_state.md`): the rows' two meanings, a principle for the
predicates over the registers that every step keeps, the invariant, the write-only output list, the gate. -/

namespace Sys2Proof.Machine

/-! ### Requests and rows -/

/-- A request runs the row it spells, and every row it can spell means `Encode` of the pair (R87). -/
theorem exec_requestInstr (id : Byte) (p : Option Byte) (s : State) :
    exec (requestInstr id p) s = encodeRequest id p s := by
  unfold requestInstr
  cases p <;> dsimp only <;> split_ifs with h <;> subst_vars <;> rfl

theorem takeInput_encode (id : Byte) (p : Option Byte) (s : State) :
    takeInput (.encode id p) s =
      .next (s.emit (.encoded (encodeFrame id p) (known id) (formOk id p))) :=
  exec_requestInstr id p s

/-- A row is a request to the encoder or the bytes of an inbound frame. -/
theorem exec_cases (i : Instr) :
    (∃ id p, exec i = encodeRequest id p) ∨ ∃ bytes, exec i = rxBytes bytes := by
  cases i with
  | lightA p => exact .inl ⟨0x31, some p, rfl⟩
  | lightB p => exact .inl ⟨0x32, some p, rfl⟩
  | lightsOff => exact .inl ⟨0x33, none, rfl⟩
  | beaconOn => exact .inl ⟨0x34, none, rfl⟩
  | switch p => exact .inl ⟨0x34, some p, rfl⟩
  | beaconOff => exact .inl ⟨0x35, none, rfl⟩
  | releaseSafe => exact .inl ⟨0x37, none, rfl⟩
  | releaseArm => exact .inl ⟨0x38, none, rfl⟩
  | releaseFire => exact .inl ⟨0x39, none, rfl⟩
  | cmdShort id => exact .inl ⟨id, none, rfl⟩
  | cmdLong id p => exact .inl ⟨id, some p, rfl⟩
  | rxFramePrimary t => exact .inr ⟨inboundBytes startPrimary t, rfl⟩
  | rxFrameLegacy t => exact .inr ⟨inboundBytes startLegacy t, rfl⟩

theorem takeInput_bufRead {s : State} {i v : Byte} (h : s.fd.buf.read i.toNat = some v) :
    takeInput (.bufRead i) s = .next (s.emit (.readData v)) := by
  simp [takeInput, bufRead, State.memRead, h]

/-! ### Predicates over the registers that every step keeps -/

/-- A predicate over the configuration and the registers that the four register-writing events keep. -/
structure KeptByEvents (P : State → Prop) : Prop where
  registers : ∀ {s t : State}, t.cfg = s.cfg → t.fd = s.fd → t.wd = s.wd → P s → P t
  reset : ∀ {s : State}, P s → P (resetEvent s)
  byte : ∀ {b : Byte} {s t : State}, rxByte b s = .next t → P s → P t
  tick : ∀ {s : State}, P s → P (tick s)
  answer : ∀ {ok : Bool} {s : State}, P s → P (xportResult ok s)

namespace KeptByEvents

variable {P : State → Prop} (hP : KeptByEvents P) {s t : State}
include hP

theorem emit {o : Output} (hs : P s) : P (s.emit o) :=
  hP.registers (emit_cfg s o) (emit_fd s o) (emit_wd s o) hs

theorem rxBytes {bytes : List Byte} (h : rxBytes bytes s = .next t) (hs : P s) : P t := by
  induction bytes generalizing s with
  | nil =>
    cases h
    exact hs
  | cons b bytes ih =>
    obtain ⟨u, hu, ht⟩ := andThen_eq_next.mp h
    exact ih ht (hP.byte hu hs)

theorem exec {i : Instr} (h : exec i s = .next t) (hs : P s) : P t := by
  rcases exec_cases i with ⟨id, p, hi⟩ | ⟨bytes, hi⟩ <;> rw [hi] at h
  · cases h
    exact hP.emit hs
  · exact hP.rxBytes h hs

theorem takeInput {e : Input} (h : takeInput e s = .next t) (hs : P s) : P t := by
  cases e with
  | reset =>
    cases h
    exact hP.reset hs
  | rxByte b => exact hP.byte h hs
  | tick =>
    cases h
    exact hP.tick hs
  | xportResult ok =>
    cases h
    exact hP.answer hs
  | encode id p => exact hP.exec h hs
  | bufRead i =>
    obtain ⟨v, -, rfl⟩ := bufRead_inversion h
    exact hP.emit hs

theorem clock {p : ClockIn} (h : clock p s = .next t) (hs : P s) : P t := by
  have hstart : P { s with outs := [] } := hP.registers (s := s) rfl rfl rfl hs
  rcases clock_inversion h with ⟨-, rfl⟩ | ⟨-, a, b, c, ha, hb, hc, rfl⟩
  · exact hP.registers (closeClock_cfg ..) (closeClock_fd ..) (closeClock_wd ..) (hP.reset hstart)
  · have hPa : P a := by
      rw [ha]
      split
      · exact hP.answer hstart
      · exact hstart
    have hPb : P b := by
      split at hb
      · exact hP.byte hb hPa
      · cases hb
        exact hPa
    have hPc : P c := by
      rw [hc]
      split
      · exact hP.tick hPb
      · exact hPb
    exact hP.registers (closeClock_cfg ..) (closeClock_fd ..) (closeClock_wd ..) hPc

theorem takeItem {it : Item} (h : takeItem it s = .next t) (hs : P s) : P t := by
  cases it with
  | event e => exact hP.takeInput h hs
  | frame d bytes =>
    obtain ⟨i, -, hi⟩ := takeFrame_inversion h
    exact hP.exec hi hs
  | clock p => exact hP.clock h hs

theorem step (h : step s = .next t) (hs : P s) : P t := by
  obtain ⟨-, ⟨-, rfl⟩ | ⟨it, rest, -, ht⟩⟩ := step_inversion h
  · exact hs
  · exact hP.takeItem ht (hP.registers (s := s) rfl rfl rfl hs)

end KeptByEvents

/-- No event writes the configuration (R36). -/
theorem cfg_keptByEvents (c : Config) : KeptByEvents fun s => s.cfg = c where
  registers hcfg _ _ hs := hcfg.trans hs
  reset hs := hs
  byte h hs := (rxByte_frame h).1.trans hs
  tick hs := (tick_frame _).1.trans hs
  answer hs := (xportResult_frame _ _).1.trans hs

/-! ### The invariant -/

/-- The part of the invariant that speaks of the decoder's registers alone. -/
structure Fd.Inv (f : Fd) : Prop where
  memory : f.buf.wf = true
  lastCell : f.buf.read 255 = none
  phase : f.PhaseOk
  checksum : f.ChecksumOk
  port : (f.buf.readRange 0 f.outLen.toNat).isSome = true

/-- The part of the invariant that speaks of the configuration and the two counters. -/
structure Wd.Inv (c : Config) (w : Wd) : Prop where
  config : c.valid = true
  divider : w.checkDiv < c.checkPeriod
  elapsed : w.elapsed ≤ c.elapsedMax

theorem inv_iff (s : State) : s.Inv ↔ s.fd.Inv ∧ s.wd.Inv s.cfg :=
  ⟨fun ⟨config, memory, lastCell, phase, checksum, port, divider, elapsed⟩ =>
      ⟨⟨memory, lastCell, phase, checksum, port⟩, ⟨config, divider, elapsed⟩⟩,
    fun ⟨⟨memory, lastCell, phase, checksum, port⟩, ⟨config, divider, elapsed⟩⟩ =>
      ⟨config, memory, lastCell, phase, checksum, port, divider, elapsed⟩⟩

/-- An idle decoder is in order whatever its buffer holds, as long as its port's cells are written. -/
theorem Fd.inv_of_idle {f : Fd} (memory : f.buf.wf = true) (lastCell : f.buf.read 255 = none)
    (port : (f.buf.readRange 0 f.outLen.toNat).isSome = true) (hstate : f.state = .awaitingStart)
    (hsize : f.size = 0) (hcnt : f.cnt = 0) (hchk : f.chk = 0) : f.Inv where
  memory := memory
  lastCell := lastCell
  phase := by simp [Fd.PhaseOk, hstate, hsize, hcnt, hchk]
  checksum := by simp [Fd.ChecksumOk, hstate]
  port := port

/-- `Reset` leaves the decoder in order over any buffer in order. -/
theorem Fd.reset_inv {m : Memory} (memory : m.wf = true) (lastCell : m.read 255 = none) :
    (Fd.reset m).Inv :=
  Fd.inv_of_idle memory lastCell rfl rfl rfl rfl rfl

theorem Wd.reset_inv {c : Config} (h : c.valid = true) : Wd.reset.Inv c where
  config := h
  divider := ((valid_iff c).mp h).1
  elapsed := Nat.zero_le _

/-- Below the declared size the count does not wrap. -/
theorem toNat_add_one_of_lt {cnt size : Byte} (h : cnt.toNat < size.toNat) :
    (cnt + 1).toNat = cnt.toNat + 1 := by
  bv_omega

section PayloadByte

/-! A payload byte keeps each part of the decoder's invariant. The count is below the size, so the cell
written is not cell 255 and the count does not wrap. -/

variable {s : State} {b : Byte} (hphase : s.fd.state = .awaitingPayload) (hfd : s.fd.Inv)
include hphase hfd

theorem cnt_lt_size : s.fd.cnt.toNat < s.fd.size.toNat := by
  have h := hfd.phase
  simp only [Fd.PhaseOk, hphase] at h
  exact h.2

theorem rxPayload_phaseOk : (rxPayload b s).fd.PhaseOk := by
  have hlt := cnt_lt_size hphase hfd
  have hcnt := toNat_add_one_of_lt hlt
  by_cases hlast : s.fd.cnt + 1 = s.fd.size
  · have hsize : 1 ≤ s.fd.size.toNat := by omega
    simp only [Fd.PhaseOk, rxPayload_fd_state, rxPayload_fd_size, rxPayload_fd_cnt, hlast, if_true]
    exact ⟨hsize, trivial⟩
  · have hne : (s.fd.cnt + 1).toNat ≠ s.fd.size.toNat := fun h => hlast (BitVec.eq_of_toNat_eq h)
    simp only [Fd.PhaseOk, rxPayload_fd_state, rxPayload_fd_size, rxPayload_fd_cnt, hlast, if_false,
      hphase]
    omega

/-- R29 goes on: the byte is stored just after the payload summed so far. -/
theorem rxPayload_checksumOk : (rxPayload b s).fd.ChecksumOk := by
  have hcnt := toNat_add_one_of_lt (cnt_lt_size hphase hfd)
  have hsum := hfd.checksum
  simp only [Fd.ChecksumOk, hphase] at hsum
  obtain ⟨start, payload, hstart, hcells, hchk⟩ := hsum
  have hcells' : (rxPayload b s).fd.buf.readRange 0 (rxPayload b s).fd.cnt.toNat =
      some (payload ++ [b]) := by
    have := readRange_write_end (v := b) hcells
    rw [Nat.zero_add] at this
    rw [rxPayload_fd_buf, rxPayload_fd_cnt, hcnt, this]
  have hchk' : (rxPayload b s).fd.chk =
      sum8 (start :: (rxPayload b s).fd.size :: (payload ++ [b])) := by
    simp [hchk, sum8_append, BitVec.add_assoc]
  by_cases hlast : s.fd.cnt + 1 = s.fd.size <;>
    simp only [Fd.ChecksumOk, rxPayload_fd_state, hlast, hphase, if_true, if_false] <;>
    exact ⟨start, payload ++ [b], hstart, hcells', hchk'⟩

theorem rxPayload_inv : (rxPayload b s).fd.Inv where
  memory := by
    rw [rxPayload_fd_buf]
    exact wf_write hfd.memory s.fd.cnt.isLt
  lastCell := by
    have hlt := cnt_lt_size hphase hfd
    have hsize := s.fd.size.isLt
    rw [rxPayload_fd_buf, read_write_other _ _ (by omega), hfd.lastCell]
  phase := rxPayload_phaseOk hphase hfd
  checksum := rxPayload_checksumOk hphase hfd
  port := by
    rw [rxPayload_fd_buf, rxPayload_fd_outLen]
    exact readRange_write_isSome hfd.port

end PayloadByte

/-- A byte taken while the decoder waits for a size opens the payload with nothing stored yet (R78). -/
theorem rxSize_inv {s : State} {b : Byte} (hphase : s.fd.state = .awaitingSize) (hb : b ≠ 0)
    (hfd : s.fd.Inv) : (rxSize b s).fd.Inv := by
  have hcnt := hfd.phase
  have hstart := hfd.checksum
  simp only [Fd.PhaseOk, hphase] at hcnt
  simp only [Fd.ChecksumOk, hphase] at hstart
  have hpos : 0 < b.toNat := Nat.pos_of_ne_zero fun h => hb (BitVec.eq_of_toNat_eq h)
  exact ⟨hfd.memory, hfd.lastCell, ⟨hpos, by simpa [hcnt.1] using hpos⟩,
    ⟨s.fd.chk, [], hstart, by simp [hcnt.1], by simp⟩, hfd.port⟩

theorem rxByte_fd_inv {b : Byte} {s t : State} (h : rxByte b s = .next t) (hfd : s.fd.Inv) :
    t.fd.Inv := by
  cases rxByte_inversion h with
  | dropped | noise => exact hfd
  | startMarker _ phase marker =>
    have hsize := hfd.phase
    simp only [Fd.PhaseOk, phase] at hsize
    exact ⟨hfd.memory, hfd.lastCell, ⟨rfl, hsize.1⟩, marker, hfd.port⟩
  | size _ phase size => exact rxSize_inv phase size hfd
  | payload _ phase => exact rxPayload_inv phase hfd
  | zeroSize | mismatch => exact Fd.inv_of_idle hfd.memory hfd.lastCell hfd.port rfl rfl rfl rfl
  | valid _ _ _ payload cells =>
    have hport : (s.fd.buf.readRange 0 s.fd.size.toNat).isSome = true := by simp [cells]
    exact Fd.inv_of_idle hfd.memory hfd.lastCell hport rfl rfl rfl rfl

theorem rxByte_wd_inv {b : Byte} {s t : State} (h : rxByte b s = .next t) (hwd : s.wd.Inv s.cfg) :
    t.wd.Inv t.cfg := by
  cases rxByte_inversion h with
  | valid => exact ⟨hwd.config, hwd.divider, Nat.zero_le _⟩
  | dropped | startMarker | noise | zeroSize | size | mismatch => exact hwd
  | payload =>
    rw [rxPayload_wd, rxPayload_cfg]
    exact hwd

theorem tick_wd_inv {s : State} (h : s.wd.Inv s.cfg) : (tick s).wd.Inv (tick s).cfg := by
  obtain ⟨hcfg, -, -, -, -, helapsed, hdiv⟩ := tick_frame s
  have hlt := h.divider
  refine ⟨hcfg ▸ h.config, ?_, ?_⟩
  · rw [hcfg, hdiv]
    split <;> omega
  · rw [hcfg, helapsed]
    exact satInc_le h.elapsed

theorem xportResult_wd_inv {ok : Bool} {s : State} (h : s.wd.Inv s.cfg) :
    (xportResult ok s).wd.Inv (xportResult ok s).cfg := by
  cases hs : s.wd.state with
  | idle => rwa [xportResult_idle ok hs]
  | reconnecting =>
    cases ok with
    | false =>
      rw [xportResult_false hs]
      exact ⟨h.config, h.divider, h.elapsed⟩
    | true =>
      rw [xportResult_true hs]
      exact ⟨h.config, h.divider, Nat.zero_le _⟩

/-- Every event keeps both parts of the invariant. -/
theorem inv_keptByEvents : KeptByEvents fun s => s.fd.Inv ∧ s.wd.Inv s.cfg where
  registers hcfg hfd hwd hs := by rwa [hcfg, hfd, hwd]
  reset hs := ⟨Fd.reset_inv hs.1.memory hs.1.lastCell, Wd.reset_inv hs.2.config⟩
  byte h hs := ⟨rxByte_fd_inv h hs.1, rxByte_wd_inv h hs.2⟩
  tick {s} hs := ⟨(tick_frame s).2.1 ▸ hs.1, tick_wd_inv hs.2⟩
  answer {ok s} hs := ⟨(xportResult_frame ok s).2.1 ▸ hs.1, xportResult_wd_inv hs.2⟩

/-! ### The output list is only appended to -/

/-- `s` with other outputs of earlier steps. -/
def State.withOuts (s : State) (os : List Output) : State := { s with outs := os }

@[simp] theorem withOuts_outs (s : State) (os : List Output) : (s.withOuts os).outs = os := rfl
@[simp] theorem withOuts_emit (s : State) (o : Output) (os : List Output) :
    (s.emit o).withOuts os = s.withOuts os := rfl
@[simp] theorem withOuts_self (s : State) : s.withOuts s.outs = s := rfl

/-- `f` appends the same outputs whatever was emitted before, and nothing else depends on that. -/
def AppendsOuts (f : State → Host.Outcome State Fault Refusal) : Prop :=
  ∀ {s t : State}, f s = .next t →
    ∃ added, ∀ os, f (s.withOuts os) = .next (t.withOuts (os ++ added))

/-- The outputs after a step that only appends. -/
theorem outs_of_appends {f : State → Host.Outcome State Fault Refusal} {s t : State}
    {added : List Output} (h : f s = .next t)
    (ha : ∀ os, f (s.withOuts os) = .next (t.withOuts (os ++ added))) :
    t.outs = s.outs ++ added := by
  have hself := ha s.outs
  rw [withOuts_self, h, Host.Outcome.next.injEq] at hself
  rw [hself, withOuts_outs]

/-- The inversion's converse: each case is what the byte step answers. -/
theorem RxStep.rxByte_eq {b : Byte} {s t : State} (h : RxStep b s t) : rxByte b s = .next t := by
  cases h with
  | dropped gate => simp [rxByte, gate]
  | startMarker gate phase marker => simp [rxByte, gate, phase, marker]
  | noise gate phase marker => simp [rxByte, gate, phase, marker, rxNoise]
  | zeroSize gate phase size => simp [rxByte, gate, phase, size]
  | size gate phase size => simp only [rxByte, gate, phase, size, if_true, if_false]
  | payload gate phase => simp [rxByte, gate, phase]
  | valid gate phase sum payload cells => simp [rxByte, gate, phase, sum, rxValidFrame, cells]
  | mismatch gate phase sum => simp [rxByte, gate, phase, sum]

/-- A byte step appends at most one output, the same whatever was emitted before. -/
theorem RxStep.withOuts {b : Byte} {s t : State} (h : RxStep b s t) :
    ∃ added, ∀ os, RxStep b (s.withOuts os) (t.withOuts (os ++ added)) := by
  cases h with
  | dropped gate => exact ⟨[], fun os => by simpa using .dropped gate⟩
  | startMarker gate phase marker =>
    exact ⟨[], fun os => by simpa using .startMarker gate phase marker⟩
  | noise gate phase marker => exact ⟨[], fun os => by simpa using .noise gate phase marker⟩
  | zeroSize gate phase size => exact ⟨_, fun os => .zeroSize gate phase size⟩
  | size gate phase size => exact ⟨[], fun os => by simpa using .size gate phase size⟩
  | payload gate phase =>
    refine ⟨[], fun os => ?_⟩
    have hrec : (rxPayload b s).withOuts os = rxPayload b (s.withOuts os) := by
      simp [rxPayload_eq, State.withOuts]
    rw [List.append_nil, hrec]
    exact .payload gate phase
  | valid gate phase sum payload cells =>
    exact ⟨[.frameOut payload b true], fun os =>
      .valid (s := s.withOuts os) gate phase sum payload cells⟩
  | mismatch gate phase sum =>
    exact ⟨[.status (.checksumMismatch b s.fd.chk)], fun os =>
      .mismatch (s := s.withOuts os) gate phase sum⟩

theorem rxByte_appendsOuts (b : Byte) : AppendsOuts (rxByte b) := by
  intro s t h
  obtain ⟨added, ha⟩ := (rxByte_inversion h).withOuts
  exact ⟨added, fun os => (ha os).rxByte_eq⟩

theorem check_withOuts (s : State) :
    ∃ added, ∀ os, check (s.withOuts os) = (check s).withOuts (os ++ added) := by
  cases hs : s.wd.state with
  | reconnecting =>
    refine ⟨[], fun os => ?_⟩
    rw [check_reconnecting hs, List.append_nil]
    exact check_reconnecting hs
  | idle =>
    cases hl : s.wd.linkDown with
    | true =>
      refine ⟨[.reconnectReq false], fun os => ?_⟩
      rw [check_connect hs hl]
      exact check_connect hs hl
    | false =>
      by_cases he : s.cfg.stallThreshold < s.wd.elapsed
      · refine ⟨[.status (.stall s.wd.elapsed), .reconnectReq true], fun os => ?_⟩
        rw [check_stall hs hl he]
        exact check_stall hs hl he
      · refine ⟨[], fun os => ?_⟩
        rw [check_quiet hs hl (Nat.le_of_not_lt he), List.append_nil]
        exact check_quiet hs hl (Nat.le_of_not_lt he)

theorem tick_withOuts (s : State) :
    ∃ added, ∀ os, tick (s.withOuts os) = (tick s).withOuts (os ++ added) := by
  by_cases hc : s.wd.checkDiv + 1 = s.cfg.checkPeriod
  · obtain ⟨added, ha⟩ := check_withOuts (s.setCounters (satInc s.cfg.elapsedMax s.wd.elapsed) 0)
    refine ⟨added, fun os => ?_⟩
    rw [tick_eq s, if_pos hc, ← ha os]
    exact (tick_eq (s.withOuts os)).trans (if_pos hc)
  · refine ⟨[], fun os => ?_⟩
    rw [tick_eq s, if_neg hc, List.append_nil]
    exact (tick_eq (s.withOuts os)).trans (if_neg hc)

theorem xportResult_withOuts (ok : Bool) (s : State) :
    ∃ added, ∀ os, xportResult ok (s.withOuts os) = (xportResult ok s).withOuts (os ++ added) := by
  cases hs : s.wd.state with
  | idle =>
    refine ⟨[], fun os => ?_⟩
    rw [xportResult_idle ok hs, List.append_nil]
    exact xportResult_idle ok hs
  | reconnecting =>
    cases ok with
    | false =>
      refine ⟨[.status .acquireFail], fun os => ?_⟩
      rw [xportResult_false hs]
      exact xportResult_false hs
    | true =>
      refine ⟨[], fun os => ?_⟩
      rw [xportResult_true hs, List.append_nil]
      exact xportResult_true hs

theorem takeInput_appendsOuts (e : Input) : AppendsOuts (takeInput e) := by
  intro s t h
  cases e with
  | reset =>
    cases h
    exact ⟨[], fun os => by rw [List.append_nil]; rfl⟩
  | rxByte b => exact rxByte_appendsOuts b h
  | tick =>
    cases h
    obtain ⟨added, ha⟩ := tick_withOuts s
    exact ⟨added, fun os => congrArg _ (ha os)⟩
  | xportResult ok =>
    cases h
    obtain ⟨added, ha⟩ := xportResult_withOuts ok s
    exact ⟨added, fun os => congrArg _ (ha os)⟩
  | encode id p =>
    rw [takeInput_encode] at h
    cases h
    exact ⟨_, fun os => takeInput_encode id p _⟩
  | bufRead i =>
    obtain ⟨v, hv, rfl⟩ := bufRead_inversion h
    exact ⟨_, fun os => takeInput_bufRead hv⟩

/-- The simulation behind the noninterference of requests: the two runs differ in the returned values that
stand in their output lists, and in nothing else. -/
theorem runInputs_without_encode {es : List Input} {s t : State} {os : List Output}
    (h : runInputs es s = .next t) (hos : os.filter Output.isEvent = s.outs.filter Output.isEvent) :
    ∃ os', runInputs (es.filter fun e => !e.isEncode) (s.withOuts os) = .next (t.withOuts os') ∧
      os'.filter Output.isEvent = t.outs.filter Output.isEvent := by
  induction es generalizing s os with
  | nil =>
    cases h
    exact ⟨os, rfl, hos⟩
  | cons e es ih =>
    obtain ⟨u, hu, ht⟩ := andThen_eq_next.mp h
    cases he : e.isEncode with
    | true =>
      cases e with
      | encode id p =>
        rw [takeInput_encode] at hu
        cases hu
        have hos' : os.filter Output.isEvent =
            (s.emit (.encoded (encodeFrame id p) (known id) (formOk id p))).outs.filter
              Output.isEvent := by
          simp [hos, Output.isEvent]
        obtain ⟨os', hrun, hev⟩ := ih ht hos'
        exact ⟨os', by simpa [he] using hrun, hev⟩
      | _ => cases he
    | false =>
      obtain ⟨added, ha⟩ := takeInput_appendsOuts e hu
      have hos' : (os ++ added).filter Output.isEvent = u.outs.filter Output.isEvent := by
        rw [outs_of_appends hu ha, List.filter_append, List.filter_append, hos]
      obtain ⟨os', hrun, hev⟩ := ih ht hos'
      exact ⟨os', by simpa [he, ha os] using hrun, hev⟩

/-! ### The byte gate and the tick -/

theorem rxByte_closed {s : State} (h : s.rxEnable = false) (b : Byte) : rxByte b s = .next s :=
  (RxStep.dropped h).rxByte_eq

theorem rxBytes_closed {s : State} (h : s.rxEnable = false) (bytes : List Byte) :
    rxBytes bytes s = .next s := by
  induction bytes with
  | nil => rfl
  | cons b bytes ih => rw [rxBytes_cons, rxByte_closed h, andThen_next, ih]

theorem rxEnable_false_of_reconnecting {s : State} (h : s.wd.state = .reconnecting) :
    s.rxEnable = false := by
  simp [State.rxEnable, h]

/-- The tick's inversion, as to its events: none and the phase stays, or one request from `IDLE`, with a
`Stall` before it exactly when there is a link (R101, R102). -/
theorem tick_inversion (s : State) :
    (tick s).outs = s.outs ∧ (tick s).wd.state = s.wd.state ∨
      (tick s).wd.state = .reconnecting ∧ s.wd.state = .idle ∧
        (s.wd.linkDown = true ∧ (tick s).outs = s.outs ++ [.reconnectReq false] ∨
          s.wd.linkDown = false ∧
            ∃ n, (tick s).outs = s.outs ++ [.status (.stall n), .reconnectReq true]) := by
  rw [tick_eq]
  split
  · rcases check_inversion (s.setCounters (satInc s.cfg.elapsedMax s.wd.elapsed) 0) with
      h | ⟨hidle, hdown, h⟩ | ⟨hidle, hup, -, h⟩ <;> rw [h]
    · exact .inl ⟨rfl, rfl⟩
    · exact .inr ⟨rfl, hidle, .inl ⟨hdown, rfl⟩⟩
    · exact .inr ⟨rfl, hidle, .inr ⟨hup, _, rfl⟩⟩
  · exact .inl ⟨rfl, rfl⟩

/-- A tick never opens the gate. -/
theorem tick_rxEnable_of_closed {s : State} (h : s.rxEnable = false) : (tick s).rxEnable = false := by
  rcases tick_inversion s with ⟨-, hstate⟩ | ⟨hrec, -⟩
  · rw [rxEnable_congr hstate (tick_frame s).2.2.2.2.1, h]
  · exact rxEnable_false_of_reconnecting hrec

/-- Only a successful answer to an outstanding request opens the gate. -/
theorem opening_input {e : Input} {s u : State} (h : takeInput e s = .next u)
    (hs : s.rxEnable = false) (hu : u.rxEnable = true) :
    e = .xportResult true ∧ s.wd.state = .reconnecting := by
  have hkept : u.rxEnable ≠ s.rxEnable := by simp [hs, hu]
  cases e with
  | reset =>
    cases h
    cases hu
  | rxByte b =>
    obtain ⟨-, -, -, hstate, hdown, -⟩ := rxByte_frame h
    exact absurd (rxEnable_congr hstate hdown) hkept
  | tick =>
    cases h
    exact absurd (tick_rxEnable_of_closed hs) (by simp [hu])
  | xportResult ok =>
    cases h
    cases hstate : s.wd.state with
    | idle => simp [xportResult_idle ok hstate] at hkept
    | reconnecting =>
      cases ok with
      | false => simp [xportResult_false hstate, State.rxEnable] at hu
      | true => exact ⟨rfl, rfl⟩
  | encode id p =>
    rw [takeInput_encode] at h
    cases h
    exact absurd rfl hkept
  | bufRead i =>
    obtain ⟨v, -, rfl⟩ := bufRead_inversion h
    exact absurd rfl hkept

/-- Only `Reset` and a tick that requests a reconnect close the gate. -/
theorem closing_input {e : Input} {s u : State} (h : takeInput e s = .next u)
    (hs : s.rxEnable = true) (hu : u.rxEnable = false) :
    e = .reset ∨ ∃ added, u.outs = s.outs ++ added ∧ .reconnectReq true ∈ added := by
  have hkept : u.rxEnable ≠ s.rxEnable := by simp [hs, hu]
  obtain ⟨hidle, hup⟩ := (rxEnable_iff s).mp hs
  cases e with
  | reset => exact .inl rfl
  | rxByte b =>
    obtain ⟨-, -, -, hstate, hdown, -⟩ := rxByte_frame h
    exact absurd (rxEnable_congr hstate hdown) hkept
  | tick =>
    cases h
    rcases tick_inversion s with ⟨-, hstate⟩ | ⟨-, -, ⟨hdown, -⟩ | ⟨-, n, houts⟩⟩
    · exact absurd (rxEnable_congr hstate (tick_frame s).2.2.2.2.1) hkept
    · simp [hup] at hdown
    · exact .inr ⟨_, houts, by simp⟩
  | xportResult ok =>
    cases h
    exact absurd (congrArg _ (xportResult_idle ok hidle)) hkept
  | encode id p =>
    rw [takeInput_encode] at h
    cases h
    exact absurd rfl hkept
  | bufRead i =>
    obtain ⟨v, -, rfl⟩ := bufRead_inversion h
    exact absurd rfl hkept

/-- A tick that requests a reconnect leaves the gate closed. -/
theorem tick_request_closes {s : State} {added : List Output} {r : Bool}
    (houts : (tick s).outs = s.outs ++ added) (hr : .reconnectReq r ∈ added) :
    (tick s).rxEnable = false := by
  rcases tick_inversion s with ⟨hquiet, -⟩ | ⟨hrec, -⟩
  · rw [hquiet, List.self_eq_append_right] at houts
    simp [houts] at hr
  · exact rxEnable_false_of_reconnecting hrec

/-! ### The output latches -/

/-- From `s` to `t` the latches stay and no frame is emitted (R27). -/
def KeepsLatches (s t : State) : Prop :=
  t.fd.outLen = s.fd.outLen ∧ t.fd.outChk = s.fd.outChk ∧
    ∀ p c v, t.outs ≠ s.outs ++ [.frameOut p c v]

theorem keepsLatches_of_outs {s t : State} {added : List Output} (hlen : t.fd.outLen = s.fd.outLen)
    (hchk : t.fd.outChk = s.fd.outChk) (houts : t.outs = s.outs ++ added)
    (hadded : hasFrame added = false) : KeepsLatches s t := by
  refine ⟨hlen, hchk, fun p c v h => ?_⟩
  rw [houts, List.append_cancel_left_eq] at h
  simp [h, hasFrame] at hadded

/-- A byte keeps the latches, or completes a frame and latches its length and checksum (R80). -/
theorem rxByte_latches {b : Byte} {s t : State} (h : rxByte b s = .next t) :
    KeepsLatches s t ∨
      ∃ payload, t.outs = s.outs ++ [.frameOut payload t.fd.outChk true] ∧
        t.fd.outLen = s.fd.size ∧ payload.length = t.fd.outLen.toNat := by
  cases rxByte_inversion h with
  | dropped | startMarker | noise | size =>
    exact .inl (keepsLatches_of_outs (added := []) rfl rfl (List.append_nil _).symm rfl)
  | payload =>
    exact .inl (keepsLatches_of_outs (added := []) (by simp) (by simp) (by simp) rfl)
  | zeroSize | mismatch => exact .inl (keepsLatches_of_outs rfl rfl rfl rfl)
  | valid _ _ _ payload cells => exact .inr ⟨payload, rfl, rfl, readRange_length cells⟩

theorem tick_keepsLatches (s : State) : KeepsLatches s (tick s) := by
  have hfd := (tick_frame s).2.1
  have hlen : (tick s).fd.outLen = s.fd.outLen := by rw [hfd]
  have hchk : (tick s).fd.outChk = s.fd.outChk := by rw [hfd]
  rcases tick_inversion s with ⟨houts, -⟩ | ⟨-, -, ⟨-, houts⟩ | ⟨-, n, houts⟩⟩
  · exact keepsLatches_of_outs (added := []) hlen hchk (by simp [houts]) rfl
  · exact keepsLatches_of_outs hlen hchk houts rfl
  · exact keepsLatches_of_outs hlen hchk houts rfl

theorem xportResult_keepsLatches (ok : Bool) (s : State) : KeepsLatches s (xportResult ok s) := by
  cases hs : s.wd.state with
  | idle =>
    rw [xportResult_idle ok hs]
    exact keepsLatches_of_outs (added := []) rfl rfl (List.append_nil _).symm rfl
  | reconnecting =>
    cases ok with
    | false =>
      rw [xportResult_false hs]
      exact keepsLatches_of_outs rfl rfl rfl rfl
    | true =>
      rw [xportResult_true hs]
      exact keepsLatches_of_outs (added := []) rfl rfl (List.append_nil _).symm rfl

/-! ### The obligations -/

/-- Settles O52: the two parts of the invariant are kept by every event, so by every step. -/
theorem stepKeepsInvariant : Obligations.StepKeepsInvariant :=
  fun s t hs h => (inv_iff t).mpr (inv_keptByEvents.step h ((inv_iff s).mp hs))

/-- Settles O11: having a given configuration is kept by every event, so by every step. -/
theorem configurationNeverChanges : Obligations.ConfigurationNeverChanges :=
  fun s _ h => (cfg_keptByEvents s.cfg).step h rfl

/-- Settles O14: a request runs the row it spells, whose meaning is the encoder's. -/
theorem encodeIsTotalAndStateless : Obligations.EncodeIsTotalAndStateless := by
  intro s id p
  cases p with
  | none => exact ⟨takeInput_encode id none s, rfl⟩
  | some b => exact ⟨takeInput_encode id (some b) s, rfl⟩

/-- Settles O15: by the simulation, started from the state itself. -/
theorem encodeRequestsDoNotInterfere : Obligations.EncodeRequestsDoNotInterfere := by
  intro es s t h
  obtain ⟨os, hrun, hev⟩ := runInputs_without_encode (os := s.outs) h rfl
  exact ⟨t.withOuts os, hrun, rfl, rfl, hev⟩

/-- Settles O23: the gate's definition, then one lemma for each thing it drops and each way it moves. -/
theorem byteGate : Obligations.ByteGate := by
  intro s
  refine ⟨rxEnable_iff s, rxBytes_closed,
    fun h t => ⟨rxBytes_closed h (inboundBytes startPrimary t),
      rxBytes_closed h (inboundBytes startLegacy t)⟩,
    fun e u => opening_input, fun e u => closing_input, fun u added r h houts hr => ?_, rfl⟩
  cases h
  exact tick_request_closes houts hr

/-- Settles O32: a byte either keeps the latches or completes a frame, the other events keep them. -/
theorem latchesHoldUntilNextFrame : Obligations.LatchesHoldUntilNextFrame := by
  intro e s t h hreset
  cases e with
  | reset => exact absurd rfl hreset
  | rxByte b => exact rxByte_latches h
  | tick =>
    cases h
    exact .inl (tick_keepsLatches s)
  | xportResult ok =>
    cases h
    exact .inl (xportResult_keepsLatches ok s)
  | encode id p =>
    rw [takeInput_encode] at h
    cases h
    exact .inl (keepsLatches_of_outs rfl rfl rfl rfl)
  | bufRead i =>
    obtain ⟨v, -, rfl⟩ := bufRead_inversion h
    exact .inl (keepsLatches_of_outs rfl rfl rfl rfl)

/-- Settles O36: under the invariant the port's cells read as a list, so each of them is written. -/
theorem portCellsAreReadable : Obligations.PortCellsAreReadable := by
  intro s i hs hi
  obtain ⟨cells, hcells⟩ := Option.isSome_iff_exists.mp hs.port
  obtain ⟨hlength, hread⟩ := readRange_eq_some.mp hcells
  have hcell := hread i.toNat (by omega)
  rw [Nat.zero_add] at hcell
  exact ⟨_, takeInput_bufRead hcell⟩

/-- Settles O50: each field of `State.reset`, and the empty buffer. -/
theorem resetState : Obligations.ResetState :=
  ⟨rfl, rfl, rfl, rfl, read_nil, rfl, rfl, rfl, rfl, rfl, rfl⟩

/-- Settles O51: both units are in order after reset, over the empty buffer. -/
theorem invariantAtReset : Obligations.InvariantAtReset :=
  fun _ hcfg => (inv_iff _).mpr ⟨Fd.reset_inv rfl rfl, Wd.reset_inv hcfg⟩

end Sys2Proof.Machine
end

section
/-! SUPPORT. The payload buffer and the queue of offered items (`20_memory.md`, `41_decoder.md` R74): which
event writes which cell, and a row's bytes taken one after another. -/

namespace Sys2Proof.Machine

/-! ### Who writes and who reads the buffer -/

/-- A byte leaves the buffer, or is a payload byte written at the count (R79). -/
theorem rxByte_buf {b : Byte} {s t : State} (h : rxByte b s = .next t) :
    t.fd.buf = s.fd.buf ∨
      s.rxEnable = true ∧ s.fd.state = .awaitingPayload ∧
        t.fd.buf = s.fd.buf.write s.fd.cnt.toNat b := by
  cases rxByte_inversion h with
  | dropped | startMarker | noise | zeroSize | size | valid | mismatch => exact .inl rfl
  | payload gate phase => exact .inr ⟨gate, phase, rxPayload_fd_buf s b⟩

/-- Every event but a byte leaves the buffer, `Reset` too (R132). -/
theorem takeInput_buf {e : Input} {s t : State} (h : takeInput e s = .next t)
    (he : ∀ b, e ≠ .rxByte b) : t.fd.buf = s.fd.buf := by
  cases e with
  | reset =>
    cases h
    rfl
  | rxByte b => exact absurd rfl (he b)
  | tick =>
    cases h
    rw [(tick_frame s).2.1]
  | xportResult ok =>
    cases h
    rw [(xportResult_frame ok s).2.1]
  | encode id p =>
    rw [takeInput_encode] at h
    cases h
    rfl
  | bufRead i =>
    obtain ⟨v, -, rfl⟩ := bufRead_inversion h
    rfl

theorem takeInput_bufRead_unwritten {s : State} {i : Byte} (h : s.fd.buf.read i.toNat = none) :
    takeInput (.bufRead i) s = .fault .unwrittenCell := by
  simp [takeInput, bufRead, State.memRead, h]

/-! ### A byte step does not look at the items still offered -/

/-- The fault of `rxByte_stops`: its conditions are enough for it. -/
theorem rxByte_unwritten {b : Byte} {s : State} (gate : s.rxEnable = true)
    (phase : s.fd.state = .awaitingChecksum) (sum : b = s.fd.chk)
    (cells : s.fd.buf.readRange 0 s.fd.size.toNat = none) :
    rxByte b s = .fault .unwrittenCell := by
  simp [rxByte, gate, phase, sum, rxValidFrame, cells]

theorem withPending_self {s : State} {items : List Item} (h : s.pending = items) :
    { s with pending := items } = s := by
  rw [← h]

theorem RxStep.withPending {b : Byte} {s t : State} (h : RxStep b s t) (items : List Item) :
    RxStep b { s with pending := items } { t with pending := items } := by
  cases h with
  | dropped gate => exact .dropped gate
  | startMarker gate phase marker => exact .startMarker gate phase marker
  | noise gate phase marker => exact .noise gate phase marker
  | zeroSize gate phase size => exact .zeroSize gate phase size
  | size gate phase size => exact .size gate phase size
  | payload gate phase =>
    have hpayload : { rxPayload b s with pending := items } =
        rxPayload b { s with pending := items } := by simp [rxPayload_eq]
    rw [hpayload]
    exact .payload gate phase
  | valid gate phase sum payload cells =>
    exact .valid (s := { s with pending := items }) gate phase sum payload cells
  | mismatch gate phase sum => exact .mismatch gate phase sum

/-- With other items offered a byte step has the same outcome, faults included, and keeps those items. -/
theorem rxByte_withPending (b : Byte) (s : State) (items : List Item) :
    rxByte b { s with pending := items } =
      andThen (rxByte b s) fun t => .next { t with pending := items } := by
  rcases rxByte_stops (b := b) (s := s) with ⟨t, ht⟩ | ⟨hfault, gate, phase, sum, cells⟩
  · rw [ht, andThen_next]
    exact ((rxByte_inversion ht).withPending items).rxByte_eq
  · rw [hfault]
    exact rxByte_unwritten gate phase sum cells

/-! ### The machine over queued bytes -/

theorem run_succ_of_next {M : Host.Core} {n : Nat} {s u : M.State} (h : M.step s = .next u) :
    M.run (n + 1) s = M.run n u := by
  rw [Host.Core.run, h]

theorem run_succ_of_fault {M : Host.Core} {n : Nat} {s : M.State} {r : M.Fault}
    (h : M.step s = .fault r) : M.run (n + 1) s = .fault r := by
  rw [Host.Core.run, h]

/-- Running over queued byte events takes the bytes in arrival order (R51) and leaves what is offered
after them. -/
theorem run_queuedBytes {bytes : List Byte} {s : State} {rest : List Item}
    (hv : s.cfg.valid = true)
    (hp : s.pending = bytes.map (fun b => Item.event (.rxByte b)) ++ rest) :
    Host.Core.run Sys2Proof.core bytes.length s = rxBytes bytes { s with pending := rest } := by
  induction bytes generalizing s with
  | nil => exact congrArg _ (withPending_self hp).symm
  | cons b bytes ih =>
    have hstep := (step_of_cons hv hp).trans
      (rxByte_withPending b { s with pending := rest }
        (bytes.map (fun b => Item.event (.rxByte b)) ++ rest))
    rw [rxBytes_cons]
    rcases rxByte_stops (b := b) (s := { s with pending := rest }) with ⟨u, hu⟩ | ⟨hfault, -⟩
    · rw [hu, andThen_next] at hstep ⊢
      obtain ⟨hcfg, hpending, -⟩ := rxByte_frame hu
      have hrun : Host.Core.run Sys2Proof.core (bytes.length + 1) s =
          rxBytes bytes { u with pending := rest } :=
        (run_succ_of_next (M := Sys2Proof.core) hstep).trans (ih (hcfg ▸ hv) rfl)
      rwa [withPending_self hpending] at hrun
    · rw [hfault] at hstep ⊢
      exact run_succ_of_fault (M := Sys2Proof.core) hstep

theorem exec_inbound {i : Instr} (h : i.direction = .inbound) (s : State) :
    exec i s = rxBytes (encode i) s := by
  cases i with
  | rxFramePrimary t => rfl
  | rxFrameLegacy t => rfl
  | _ => cases h

/-! ### The obligations -/

/-- Settles O26: a row means its frame's bytes, and running over queued bytes takes just those. -/
theorem inboundRowIsItsByteSteps : Obligations.InboundRowIsItsByteSteps := by
  intro i s rest hdir hv hp
  rw [exec_inbound hdir]
  exact run_queuedBytes hv hp

/-- Settles O35: only a byte can change the buffer, and the one write it can make is at the count. -/
theorem onlyPayloadBytesWriteBuffer : Obligations.OnlyPayloadBytesWriteBuffer := by
  intro e s t k h
  by_cases he : ∃ b, e = .rxByte b
  · obtain ⟨b, rfl⟩ := he
    rcases rxByte_buf h with hbuf | ⟨gate, phase, hbuf⟩ <;> rw [hbuf]
    · exact .inl rfl
    · by_cases hk : k = s.fd.cnt.toNat
      · subst hk
        exact .inr ⟨b, rfl, gate, phase, rfl, read_write_same _ _ _⟩
      · exact .inl (read_write_other _ _ hk)
  · rw [takeInput_buf h (not_exists.mp he)]
    exact .inl rfl

/-- Settles O34: one clause for a written cell, one for a cell never written. -/
theorem bufferRead : Obligations.BufferRead :=
  fun _ _ => ⟨fun _ => takeInput_bufRead, takeInput_bufRead_unwritten⟩

end Sys2Proof.Machine
end

section
/-! SUPPORT. What the decoder accepts, said once for each direction (`30_encoding.md` R55 to R71), and the
round trips between instructions and their frames. -/

namespace Sys2Proof

/-! ### Outbound frames -/

/-- The bytes of an outbound frame before its checksum (R61, R62). -/
def outboundBody (id : Byte) : Option Byte → List Byte
  | none => [txStart, 1, id]
  | some p => [txStart, 2, id, p]

theorem encodeFrame_eq_body (id : Byte) (p : Option Byte) :
    encodeFrame id p = outboundBody id p ++ [sum8 (outboundBody id p)] := by
  cases p <;> rfl

theorem decodeOutbound_body (id : Byte) (p : Option Byte) (c : Byte) (rest : List Byte) :
    decodeOutbound (outboundBody id p ++ c :: rest) = .ok (requestInstr id p) rest := by
  cases p <;> rfl

/-- The outbound decoder's inversion: a body, one byte whatever it is (log 5), and the bytes left over. -/
theorem decodeOutbound_inversion {bs rest : List Byte} {i : Instr}
    (h : decodeOutbound bs = .ok i rest) :
    ∃ id p c, i = requestInstr id p ∧ bs = outboundBody id p ++ c :: rest := by
  unfold decodeOutbound at h
  split at h
  · split at h
    · next hstart =>
      split at h
      · next hsize =>
        split at h
        · next id c _ =>
          cases h
          exact ⟨id, none, c, rfl, by rw [hstart, hsize]; rfl⟩
        · cases h
      · split at h
        · next hsize =>
          split at h
          · next id p c _ =>
            cases h
            exact ⟨id, some p, c, rfl, by rw [hstart, hsize]; rfl⟩
          · cases h
        · cases h
    · cases h
  · cases h

theorem decodeOutbound_encodeFrame (id : Byte) (p : Option Byte) (rest : List Byte) :
    decodeOutbound (encodeFrame id p ++ rest) = .ok (requestInstr id p) rest := by
  rw [encodeFrame_eq_body, List.append_assoc]
  exact decodeOutbound_body id p _ rest

/-- A raw `CMD` is the row its pair spells when none of the nine listed rows spells it (R71). -/
theorem requestInstr_none_of_not_listed {id : Byte} (h : id ∉ shortIds) :
    requestInstr id none = .cmdShort id := by
  simp_all [shortIds, requestInstr]

theorem requestInstr_some_of_not_listed {id : Byte} (h : id ∉ longIds) (p : Byte) :
    requestInstr id (some p) = .cmdLong id p := by
  simp_all [longIds, requestInstr]

/-- An outbound row has the frame of a pair (id, payload byte), and is the row that pair spells when it
is well formed. -/
theorem outbound_row {i : Instr} (h : i.direction = .outbound) :
    ∃ id p, encode i = encodeFrame id p ∧ (i.wf = true → i = requestInstr id p) := by
  cases i with
  | lightA p => exact ⟨0x31, some p, rfl, fun _ => rfl⟩
  | lightB p => exact ⟨0x32, some p, rfl, fun _ => rfl⟩
  | lightsOff => exact ⟨0x33, none, rfl, fun _ => rfl⟩
  | beaconOn => exact ⟨0x34, none, rfl, fun _ => rfl⟩
  | switch p => exact ⟨0x34, some p, rfl, fun _ => rfl⟩
  | beaconOff => exact ⟨0x35, none, rfl, fun _ => rfl⟩
  | releaseSafe => exact ⟨0x37, none, rfl, fun _ => rfl⟩
  | releaseArm => exact ⟨0x38, none, rfl, fun _ => rfl⟩
  | releaseFire => exact ⟨0x39, none, rfl, fun _ => rfl⟩
  | cmdShort id =>
    exact ⟨id, none, rfl, fun hw => (requestInstr_none_of_not_listed (of_decide_eq_true hw)).symm⟩
  | cmdLong id p =>
    exact ⟨id, some p, rfl,
      fun hw => (requestInstr_some_of_not_listed (of_decide_eq_true hw) p).symm⟩
  | rxFramePrimary t => cases h
  | rxFrameLegacy t => cases h

/-! ### Inbound frames -/

/-- The size byte of a well-formed tail tells the decoder where the payload ends (R55, R59). -/
theorem decodeTail_bytes {t : RxTail} (ht : t.wf = true) (mk : RxTail → Instr) (rest : List Byte) :
    decodeTail mk (t.bytes ++ rest) = .ok (mk t) rest := by
  cases t with
  | zeroSize => rfl
  | sized payload c =>
    obtain ⟨hmin, hmax⟩ := sized_wf.mp ht
    have hbytes : (RxTail.sized payload c).bytes ++ rest =
        BitVec.ofNat 8 payload.length :: (payload ++ c :: rest) := by simp [RxTail.bytes]
    rw [hbytes]
    simp only [decodeTail, sizeByte_ne_zero hmin hmax, if_false, sizeByte_toNat hmax,
      List.drop_left, List.take_left]

/-- The tail decoder's inversion: the bytes read are those of a well-formed tail. -/
theorem decodeTail_inversion {mk : RxTail → Instr} {bs rest : List Byte} {i : Instr}
    (h : decodeTail mk bs = .ok i rest) : ∃ t, t.wf = true ∧ i = mk t ∧ bs = t.bytes ++ rest := by
  unfold decodeTail at h
  split at h
  · next size tail =>
    split at h
    · next hzero =>
      cases h
      exact ⟨.zeroSize, rfl, rfl, by rw [hzero]; rfl⟩
    · next hsize =>
      split at h
      · next c after hdrop =>
        cases h
        have hlen := congrArg List.length hdrop
        simp only [List.length_drop, List.length_cons] at hlen
        have htake : (tail.take size.toNat).length = size.toNat :=
          List.length_take_of_le (by omega)
        have hpos : size.toNat ≠ 0 := fun h0 => hsize (BitVec.eq_of_toNat_eq h0)
        refine ⟨.sized (tail.take size.toNat) c, sized_wf.mpr ?_, rfl, ?_⟩
        · rw [htake]
          omega
        · simp only [RxTail.bytes, htake, BitVec.ofNat_toNat, BitVec.setWidth_eq, List.cons_append,
            List.append_assoc, List.nil_append]
          rw [← hdrop, List.take_append_drop]
      · cases h
  · cases h

/-- What the inbound decoder reads, in both directions: exactly the frames of the well-formed inbound
rows, since its checksum byte is an operand of the row (R69). -/
theorem decodeInbound_eq_ok_iff {bs rest : List Byte} {i : Instr} :
    decodeInbound bs = .ok i rest ↔
      i.wf = true ∧ i.direction = .inbound ∧ bs = encode i ++ rest := by
  constructor
  · intro h
    unfold decodeInbound at h
    split at h
    · split at h
      · next hstart =>
        obtain ⟨t, ht, rfl, rfl⟩ := decodeTail_inversion h
        exact ⟨ht, rfl, by rw [hstart]; rfl⟩
      · split at h
        · next hstart =>
          obtain ⟨t, ht, rfl, rfl⟩ := decodeTail_inversion h
          exact ⟨ht, rfl, by rw [hstart]; rfl⟩
        · cases h
    · cases h
  · rintro ⟨hw, hdir, rfl⟩
    cases i with
    | rxFramePrimary t => exact decodeTail_bytes hw .rxFramePrimary rest
    | rxFrameLegacy t => exact decodeTail_bytes hw .rxFrameLegacy rest
    | _ => cases hdir

theorem encode_sized {i : Instr} {payload : List Byte} {c : Byte}
    (h : i = .rxFramePrimary (.sized payload c) ∨ i = .rxFrameLegacy (.sized payload c)) :
    ∃ start, encode i = start :: BitVec.ofNat 8 payload.length :: (payload ++ [c]) := by
  rcases h with rfl | rfl
  · exact ⟨startPrimary, rfl⟩
  · exact ⟨startLegacy, rfl⟩

theorem wf_of_sized {i : Instr} {payload : List Byte} {c : Byte}
    (h : i = .rxFramePrimary (.sized payload c) ∨ i = .rxFrameLegacy (.sized payload c)) :
    i.wf = (RxTail.sized payload c).wf := by
  rcases h with rfl | rfl <;> rfl

/-- An inbound frame has three bytes besides its payload (R56). -/
theorem encode_sized_length {i : Instr} {payload : List Byte} {c : Byte}
    (h : i = .rxFramePrimary (.sized payload c) ∨ i = .rxFrameLegacy (.sized payload c)) :
    (encode i).length = payload.length + 3 := by
  obtain ⟨start, henc⟩ := encode_sized h
  simp [henc]

/-! ### The obligations -/

/-- Settles O1: an outbound row is the request its frame spells, an inbound row is one of those the
inbound decoder is said to read. -/
theorem decodeOfEncode : Obligations.DecodeOfEncode := by
  intro i rest hw
  cases hdir : i.direction with
  | outbound =>
    obtain ⟨id, p, henc, hrow⟩ := outbound_row hdir
    rw [henc, hrow hw]
    exact decodeOutbound_encodeFrame id p rest
  | inbound => exact decodeInbound_eq_ok_iff.mpr ⟨hw, hdir, rfl⟩

/-- Settles O2: the inversion of each direction's decoder; a request's row is spelled by its frame. -/
theorem decodedFrameReencodes : Obligations.DecodedFrameReencodes := by
  intro d bs i rest h
  cases d with
  | outbound =>
    obtain ⟨id, p, c, rfl, rfl⟩ := decodeOutbound_inversion h
    have henc : encode (requestInstr id p) = outboundBody id p ++ [sum8 (outboundBody id p)] :=
      (encode_requestInstr id p).trans (encodeFrame_eq_body id p)
    exact ⟨requestInstr_wf id p, requestInstr_direction id p, nofun, fun _ => ⟨_, c, rfl, henc⟩⟩
  | inbound =>
    obtain ⟨hw, hdir, hbytes⟩ := decodeInbound_eq_ok_iff.mp h
    exact ⟨hw, hdir, fun _ => hbytes, nofun⟩

/-- Settles O4: the body of each form and its sum. -/
theorem outboundFrameFormat : Obligations.OutboundFrameFormat :=
  fun id => ⟨encodeFrame_eq_body id none, fun p => encodeFrame_eq_body id (some p)⟩

/-- Settles O5: the two outbound forms, the sized inbound rows, and the longest of them, which has 255
payload bytes. -/
theorem frameLengths : Obligations.FrameLengths := by
  refine ⟨fun i hdir => ?_, fun i payload c hi hw => ?_, ?_⟩
  · obtain ⟨id, p, henc, -⟩ := outbound_row hdir
    rw [henc]
    cases p with
    | none => exact .inl ⟨rfl, rfl⟩
    | some p => exact .inr ⟨rfl, rfl⟩
  · obtain ⟨hmin, hmax⟩ := sized_wf.mp (wf_of_sized hi ▸ hw)
    obtain ⟨start, henc⟩ := encode_sized hi
    have hlen := encode_sized_length hi
    refine ⟨⟨_, ?_, sizeByte_toNat hmax⟩, hlen, by omega, by omega⟩
    rw [henc]
    rfl
  · obtain ⟨payload, hlen⟩ : ∃ payload : List Byte, payload.length = 255 :=
      ⟨List.replicate 255 0, List.length_replicate⟩
    refine ⟨.rxFramePrimary (.sized payload 0), (sized_wf (c := 0)).mpr (by omega), rfl, ?_⟩
    rw [encode_sized_length (.inl rfl), hlen]

end Sys2Proof

namespace Sys2Proof.Machine

theorem known_iff (id : Byte) : known id = true ↔ id = 0x31 ∨ id = 0x32 ∨ id = 0x33 ∨ id = 0x34 ∨
    id = 0x35 ∨ id = 0x37 ∨ id = 0x38 ∨ id = 0x39 := by
  simp [known]

theorem formOk_none_iff (id : Byte) : formOk id none = true ↔
    id = 0x33 ∨ id = 0x34 ∨ id = 0x35 ∨ id = 0x37 ∨ id = 0x38 ∨ id = 0x39 := by
  simp [formOk, shortIds]

theorem formOk_some_iff (id p : Byte) :
    formOk id (some p) = true ↔ id = 0x31 ∨ id = 0x32 ∨ id = 0x34 := by
  simp [formOk, longIds]

/-- Settles O6: what `Encode` returns, and each flag's list of ids. -/
theorem advisoryFlags : Obligations.AdvisoryFlags :=
  fun id => ⟨takeInput_encode id, known_iff id, formOk_none_iff id, formOk_some_iff id⟩

/-- Settles O8: an offered frame runs what it decodes to; a caller's frame decodes to the row the request
spells, and that row is what the request runs. -/
theorem stepRunsDecodedInstruction : Obligations.StepRunsDecodedInstruction := by
  refine fun s rest hv => ⟨fun d bytes i hp hdec => ?_, fun id p i hp hdec => ?_⟩
  · exact (step_of_cons hv hp).trans (takeFrame_of_decode hdec _)
  · have hrow : decodeOutbound (encodeFrame id p) = .ok (requestInstr id p) [] := by
      simpa only [List.append_nil] using decodeOutbound_encodeFrame id p []
    obtain rfl : requestInstr id p = i := (Decoded.ok.inj (hrow.symm.trans hdec)).1
    exact step_of_cons hv hp

/-- A start marker and then a size byte of 0, from idle (R75, R77). -/
theorem rxBytes_zeroSize_of_idle {start : Byte} {s : State} (hstart : isStartMarker start = true)
    (gate : s.rxEnable = true) (idle : s.fd.state = .awaitingStart) :
    rxBytes [start, 0] s = .next (rxZeroSize (rxStartMarker start s)) := by
  have hmarker : rxByte start s = .next (rxStartMarker start s) :=
    (RxStep.startMarker gate idle hstart).rxByte_eq
  have hsize : rxByte 0 (rxStartMarker start s) = .next (rxZeroSize (rxStartMarker start s)) :=
    (RxStep.zeroSize (s := rxStartMarker start s) gate rfl rfl).rxByte_eq
  rw [rxBytes_cons, hmarker, andThen_next, rxBytes_cons, hsize, andThen_next, rxBytes_nil]

/-- Settles O25: either row's zero-size form is a start marker and a 0. -/
theorem zeroSizeFrameFromIdle : Obligations.ZeroSizeFrameFromIdle := by
  rintro s i (rfl | rfl) gate idle
  · exact rxBytes_zeroSize_of_idle rfl gate idle
  · exact rxBytes_zeroSize_of_idle rfl gate idle

end Sys2Proof.Machine
end

section
/-! SUPPORT. The Frame Decoder (`41_decoder.md`): its transitions one by one (R75 to R83), the rows under the
invariant, and one frame from idle, with or without other events between its bytes (R84). -/

namespace Sys2Proof.Machine

/-! ### The transitions one by one -/

theorem isStartMarker_iff {b : Byte} : isStartMarker b = true ↔ b = 0x62 ∨ b = 0x61 := by
  simp [isStartMarker]

/-- An idle decoder leaves every other byte alone, and with the gate closed every byte is dropped
(R76, R108). -/
theorem rxByte_noise {b : Byte} {s : State} (idle : s.fd.state = .awaitingStart)
    (hprimary : b ≠ 0x62) (hlegacy : b ≠ 0x61) : rxByte b s = .next s := by
  have hnoise : isStartMarker b = false := by simpa [isStartMarker] using ⟨hprimary, hlegacy⟩
  cases gate : s.rxEnable with
  | false => exact rxByte_closed gate b
  | true => exact (RxStep.noise gate idle hnoise).rxByte_eq

/-- Every event but a byte and `Reset` leaves the decoder's registers (R109, R38, R42). -/
theorem takeInput_fd {e : Input} {s t : State} (h : takeInput e s = .next t)
    (hbyte : ∀ b, e ≠ .rxByte b) (hreset : e ≠ .reset) : t.fd = s.fd := by
  cases e with
  | reset => exact absurd rfl hreset
  | rxByte b => exact absurd rfl (hbyte b)
  | tick =>
    cases h
    exact (tick_frame s).2.1
  | xportResult ok =>
    cases h
    exact (xportResult_frame ok s).2.1
  | encode id p =>
    rw [takeInput_encode] at h
    cases h
    rfl
  | bufRead i =>
    obtain ⟨v, -, rfl⟩ := bufRead_inversion h
    rfl

/-- A byte after which the size is awaited was a start marker taken while idle, or was dropped. -/
theorem rxByte_awaitingSize {b : Byte} {s t : State} (h : rxByte b s = .next t)
    (ht : t.fd.state = .awaitingSize) :
    s.fd.state = .awaitingSize ∨
      s.fd.state = .awaitingStart ∧ s.rxEnable = true ∧ isStartMarker b = true := by
  cases rxByte_inversion h with
  | dropped | noise => exact .inl ht
  | startMarker gate phase marker => exact .inr ⟨phase, gate, marker⟩
  | zeroSize | size | valid | mismatch => cases ht
  | payload _ phase =>
    rw [rxPayload_fd_state, phase] at ht
    split at ht <;> cases ht

/-! ### Runs of bytes under the invariant -/

/-- The invariant excludes the one stop of the byte step: R28 and R29 say that the cells are written. -/
theorem rxByte_completes {s : State} (hs : s.fd.Inv) (b : Byte) : ∃ t, rxByte b s = .next t := by
  rcases rxByte_stops (b := b) (s := s) with hnext | ⟨-, -, phase, -, hunwritten⟩
  · exact hnext
  · have hphase := hs.phase
    have hsum := hs.checksum
    simp only [Fd.PhaseOk, phase] at hphase
    simp only [Fd.ChecksumOk, phase] at hsum
    obtain ⟨-, payload, -, hcells, -⟩ := hsum
    rw [hphase.2, hunwritten] at hcells
    cases hcells

theorem rxBytes_completes {bytes : List Byte} {s : State} (hs : s.fd.Inv) :
    ∃ t, rxBytes bytes s = .next t := by
  induction bytes generalizing s with
  | nil => exact ⟨s, rfl⟩
  | cons b bytes ih =>
    obtain ⟨t, ht⟩ := rxByte_completes hs b
    rw [rxBytes_cons, ht, andThen_next]
    exact ih (rxByte_fd_inv ht hs)

/-- What no run of bytes changes: the configuration, the offered items, the free values' index. -/
theorem rxBytes_frame {bytes : List Byte} {s t : State} (h : rxBytes bytes s = .next t) :
    t.cfg = s.cfg ∧ t.pending = s.pending ∧ t.freeCount = s.freeCount := by
  induction bytes generalizing s with
  | nil =>
    cases h
    exact ⟨rfl, rfl, rfl⟩
  | cons b bytes ih =>
    obtain ⟨u, hu, ht⟩ := andThen_eq_next.mp h
    obtain ⟨hcfg, hpending, hfree, -⟩ := rxByte_frame hu
    obtain ⟨hcfg', hpending', hfree'⟩ := ih ht
    exact ⟨hcfg'.trans hcfg, hpending'.trans hpending, hfree'.trans hfree⟩

/-- A run of bytes changes a cell only where one of them is a payload byte counted there (R79). -/
theorem rxBytes_cell {bytes : List Byte} {s t : State} (h : rxBytes bytes s = .next t) (k : Nat) :
    t.fd.buf.read k = s.fd.buf.read k ∨
      ∃ n v, n < bytes.length ∧ rxBytes (bytes.take n) s = .next v ∧
        v.fd.state = .awaitingPayload ∧ k = v.fd.cnt.toNat := by
  induction bytes generalizing s with
  | nil =>
    cases h
    exact .inl rfl
  | cons b bytes ih =>
    obtain ⟨u, hu, ht⟩ := andThen_eq_next.mp h
    rcases ih ht with hread | ⟨n, v, hn, hv, hphase, hk⟩
    · rcases rxByte_buf hu with hbuf | ⟨-, phase, hbuf⟩
      · exact .inl (by rw [hread, hbuf])
      · by_cases hk : k = s.fd.cnt.toNat
        · exact .inr ⟨0, s, Nat.zero_lt_succ _, rfl, phase, hk⟩
        · exact .inl (by rw [hread, hbuf, read_write_other _ _ hk])
    · refine .inr ⟨n + 1, v, Nat.succ_lt_succ hn, ?_, hphase, hk⟩
      rw [List.take_succ_cons, rxBytes_cons, hu, andThen_next, hv]

/-- From `s` to `t`, which emits `added`, the latches and the watchdog stay and no frame is emitted, or one
is and the elapsed time is cleared (R27, R80, R107). -/
def WritesOnlyWithFrame (s t : State) (added : List Output) : Prop :=
  (t.wd = s.wd ∧ t.fd.outLen = s.fd.outLen ∧ t.fd.outChk = s.fd.outChk ∧
      ∀ p c v, .frameOut p c v ∉ added) ∨
    (t.wd = { s.wd with elapsed := 0 } ∧ ∃ p c, .frameOut p c true ∈ added)

theorem WritesOnlyWithFrame.trans {s t u : State} {xs ys : List Output}
    (hst : WritesOnlyWithFrame s t xs) (htu : WritesOnlyWithFrame t u ys) :
    WritesOnlyWithFrame s u (xs ++ ys) := by
  rcases hst with ⟨hwd, hlen, hchk, hnone⟩ | ⟨hwd, p, c, hframe⟩ <;>
    rcases htu with ⟨hwd', hlen', hchk', hnone'⟩ | ⟨hwd', p', c', hframe'⟩
  · exact .inl ⟨hwd'.trans hwd, hlen'.trans hlen, hchk'.trans hchk,
      fun p c v => List.not_mem_append (hnone p c v) (hnone' p c v)⟩
  · exact .inr ⟨by rw [hwd', hwd], p', c', List.mem_append_right xs hframe'⟩
  · exact .inr ⟨by rw [hwd', hwd], p, c, List.mem_append_left ys hframe⟩
  · exact .inr ⟨by rw [hwd', hwd], p, c, List.mem_append_left ys hframe⟩

theorem rxByte_writesOnlyWithFrame {b : Byte} {s t : State} (h : rxByte b s = .next t) :
    ∃ added, t.outs = s.outs ++ added ∧ WritesOnlyWithFrame s t added := by
  cases rxByte_inversion h with
  | dropped | startMarker | noise | size =>
    exact ⟨[], (List.append_nil _).symm, .inl ⟨rfl, rfl, rfl, by simp⟩⟩
  | payload => exact ⟨[], by simp, .inl (by simp)⟩
  | zeroSize | mismatch => exact ⟨_, rfl, .inl ⟨rfl, rfl, rfl, by simp⟩⟩
  | valid _ _ _ payload _ => exact ⟨_, rfl, .inr ⟨rfl, payload, b, List.mem_singleton.mpr rfl⟩⟩

theorem rxBytes_writesOnlyWithFrame {bytes : List Byte} {s t : State} (h : rxBytes bytes s = .next t) :
    ∃ added, t.outs = s.outs ++ added ∧ WritesOnlyWithFrame s t added := by
  induction bytes generalizing s with
  | nil =>
    cases h
    exact ⟨[], (List.append_nil _).symm, .inl ⟨rfl, rfl, rfl, by simp⟩⟩
  | cons b bytes ih =>
    obtain ⟨u, hu, ht⟩ := andThen_eq_next.mp h
    obtain ⟨xs, hxs, hsu⟩ := rxByte_writesOnlyWithFrame hu
    obtain ⟨ys, hys, hut⟩ := ih ht
    exact ⟨xs ++ ys, by rw [hys, hxs, List.append_assoc], hsu.trans hut⟩

/-! ### Other events between the bytes of a frame -/

/-- From `s` to `t` no event is emitted, and the elapsed time is as `n` ticks make it. -/
structure QuietSpan (n : Nat) (s t : State) : Prop where
  cfg : t.cfg = s.cfg
  outs : ∃ quiet, t.outs = s.outs ++ quiet ∧ ∀ o ∈ quiet, Output.isEvent o = false
  elapsed : t.wd.elapsed = min (s.wd.elapsed + n) s.cfg.elapsedMax

namespace QuietSpan

variable {m n : Nat} {s t u : State}

theorem elapsed_le (h : QuietSpan n s t) : t.wd.elapsed ≤ t.cfg.elapsedMax := by
  rw [h.elapsed, h.cfg]
  exact Nat.min_le_right _ _

theorem trans (hst : QuietSpan n s t) (htu : QuietSpan m t u) : QuietSpan (m + n) s u where
  cfg := htu.cfg.trans hst.cfg
  outs := by
    obtain ⟨xs, hxs, hquiet⟩ := hst.outs
    obtain ⟨ys, hys, hquiet'⟩ := htu.outs
    exact ⟨xs ++ ys, by rw [hys, hxs, List.append_assoc],
      List.forall_mem_append.mpr ⟨hquiet, hquiet'⟩⟩
  elapsed := by
    rw [htu.elapsed, hst.elapsed, hst.cfg]
    omega

variable (hle : s.wd.elapsed ≤ s.cfg.elapsedMax)
include hle

/-- A step that writes only the decoder's registers. -/
theorem withFd (f : Fd) : QuietSpan 0 s { s with fd := f } where
  cfg := rfl
  outs := ⟨[], (List.append_nil _).symm, by simp⟩
  elapsed := (Nat.min_eq_left hle).symm

/-- A step that returns a value. -/
theorem emit {o : Output} (ho : Output.isEvent o = false) : QuietSpan 0 s (s.emit o) where
  cfg := rfl
  outs := ⟨[o], rfl, by simpa using ho⟩
  elapsed := (Nat.min_eq_left hle).symm

/-- A tick that leaves the gate open requests nothing. -/
theorem tick (hopen : (tick s).rxEnable = true) : QuietSpan 1 s (tick s) := by
  obtain ⟨hcfg, -, -, -, -, helapsed, -⟩ := tick_frame s
  refine ⟨hcfg, ?_, helapsed.trans (satInc_eq_min hle)⟩
  rcases tick_inversion s with ⟨houts, -⟩ | ⟨hrec, -⟩
  · exact ⟨[], by rw [houts, List.append_nil], by simp⟩
  · rw [rxEnable_false_of_reconnecting hrec] at hopen
    cases hopen

end QuietSpan

/-- Between two bytes, with the gate open before and after, an event leaves the decoder alone and emits
nothing: no reset can come, no request, and no answer that is not ignored (R84). -/
theorem takeInput_quiet {e : Input} {s t : State} (h : takeInput e s = .next t)
    (hbyte : ∀ b, e ≠ .rxByte b) (gate : s.rxEnable = true) (hopen : t.rxEnable = true)
    (hle : s.wd.elapsed ≤ s.cfg.elapsedMax) : t.fd = s.fd ∧ QuietSpan (tickCount [e]) s t := by
  have hreset : e ≠ .reset := by
    rintro rfl
    cases h
    cases hopen
  refine ⟨takeInput_fd h hbyte hreset, ?_⟩
  cases e with
  | reset => exact absurd rfl hreset
  | rxByte b => exact absurd rfl (hbyte b)
  | tick =>
    cases h
    exact .tick hle hopen
  | xportResult ok =>
    cases h
    rw [xportResult_idle ok ((rxEnable_iff s).mp gate).1]
    exact .withFd hle s.fd
  | encode id p =>
    rw [takeInput_encode] at h
    cases h
    exact .emit hle rfl
  | bufRead i =>
    obtain ⟨v, -, rfl⟩ := bufRead_inversion h
    exact .emit hle rfl

theorem offeredBytes_cons (e : Input) (es : List Input) :
    offeredBytes (e :: es) = offeredBytes [e] ++ offeredBytes es := by
  cases e <;> rfl

theorem offeredBytes_singleton {e : Input} (h : ∀ b, e ≠ .rxByte b) : offeredBytes [e] = [] := by
  cases e with
  | rxByte b => exact absurd rfl (h b)
  | reset | tick | xportResult | encode | bufRead => rfl

theorem tickCount_cons (e : Input) (es : List Input) :
    tickCount (e :: es) = tickCount es + tickCount [e] := by
  cases e <;> rfl

/-! ### One frame from idle -/

/-- From `old` the decoder has taken a start byte, a size byte and the payload bytes `stored`. -/
structure Fd.Collected (f old : Fd) (start size : Byte) (stored : List Byte) : Prop where
  state : f.state = if stored.length = size.toNat then .awaitingChecksum else .awaitingPayload
  declared : f.size = size
  cnt : f.cnt.toNat = stored.length
  chk : f.chk = sum8 (start :: size :: stored)
  cells : f.buf.readRange 0 stored.length = some stored
  otherCells : ∀ k, stored.length ≤ k → f.buf.read k = old.buf.read k
  outLen : f.outLen = old.outLen
  outChk : f.outChk = old.outChk

/-- From `old` the decoder has taken the bytes `done` at the front of a frame. -/
def Fd.Progress (f old : Fd) : List Byte → Prop
  | [] => f = old
  | [start] => f = { old with chk := start, cnt := 0, state := .awaitingSize }
  | start :: size :: stored => f.Collected old start size stored

namespace Fd.Collected

variable {old : Fd} {start size b : Byte} {stored : List Byte} {s : State}

/-- A size byte opens the payload, with nothing stored (R78). -/
theorem rxSize (hs : s.fd = { old with chk := start, cnt := 0, state := .awaitingSize })
    (hsize : size ≠ 0) : (rxSize size s).fd.Collected old start size [] where
  state := by
    have hpos : 0 ≠ size.toNat := fun h => hsize (BitVec.eq_of_toNat_eq h.symm)
    rw [List.length_nil, if_neg hpos]
    rfl
  declared := rfl
  cnt := by simp [hs]
  chk := by simp [hs]
  cells := rfl
  otherCells k _ := by simp [hs]
  outLen := by simp [hs]
  outChk := by simp [hs]

/-- A payload byte before the last goes on collecting: the count does not wrap, so the byte is stored
just after the others (R79). -/
theorem rxPayload (h : s.fd.Collected old start size stored) (hlt : stored.length < size.toNat) :
    (rxPayload b s).fd.Collected old start size (stored ++ [b]) := by
  have hcnt : (s.fd.cnt + 1).toNat = (stored ++ [b]).length := by
    rw [toNat_add_one_of_lt (size := size) (by rw [h.cnt]; exact hlt), h.cnt, List.length_append]
    rfl
  have hcells := readRange_write_end (v := b) h.cells
  rw [Nat.zero_add] at hcells
  refine ⟨?_, ?_, ?_, ?_, ?_, fun k hk => ?_, ?_, ?_⟩
  · have hlast : s.fd.cnt + 1 = s.fd.size ↔ (stored ++ [b]).length = size.toNat := by
      rw [← hcnt, h.declared, BitVec.toNat_inj]
    simp only [rxPayload_fd_state, hlast, h.state, if_neg (Nat.ne_of_lt hlt)]
  · rw [rxPayload_fd_size, h.declared]
  · rw [rxPayload_fd_cnt, hcnt]
  · simp [h.chk, sum8_append, BitVec.add_assoc]
  · rw [rxPayload_fd_buf, h.cnt, List.length_append]
    exact hcells
  · rw [List.length_append, List.length_singleton] at hk
    rw [rxPayload_fd_buf, h.cnt, read_write_other _ _ (by omega), h.otherCells k (by omega)]
  · rw [rxPayload_fd_outLen, h.outLen]
  · rw [rxPayload_fd_outChk, h.outChk]

theorem read (h : s.fd.Collected old start size stored) (k : Nat) (hk : k < stored.length) :
    s.fd.buf.read k = some stored[k] := by
  have hread := (readRange_eq_some.mp h.cells).2 k hk
  rwa [Nat.zero_add] at hread

/-- With the whole payload stored the next byte decides: the sum completes the frame, any other byte
drops it (R80, R81). -/
theorem rxByte_checksum (h : s.fd.Collected old start size stored)
    (hlength : stored.length = size.toNat) (gate : s.rxEnable = true) (c : Byte) :
    rxByte c s = .next (
      if c = sum8 (start :: size :: stored) then
        { s with
          fd := { s.fd with
            state := .awaitingStart, size := 0, cnt := 0, chk := 0, outLen := size, outChk := c }
          wd := { s.wd with elapsed := 0 }
          outs := s.outs ++ [.frameOut stored c true] }
      else
        { s with
          fd := { s.fd with state := .awaitingStart, size := 0, cnt := 0, chk := 0 }
          outs := s.outs ++ [.status (.checksumMismatch c (sum8 (start :: size :: stored)))] }) := by
  have phase := h.state
  rw [if_pos hlength] at phase
  have hcells := h.cells
  rw [hlength] at hcells
  obtain rfl := h.declared
  rw [← h.chk]
  split
  · next hsum => exact (RxStep.valid gate phase hsum stored hcells).rxByte_eq
  · next hsum => exact (RxStep.mismatch gate phase hsum).rxByte_eq

end Fd.Collected

section Frame

/-! The bytes of a frame but its last: a start marker, a size byte other than 0, a payload of that size. -/

variable {old : Fd} {start size : Byte} {payload done : List Byte}
  (idle : old.state = .awaitingStart) (hstart : isStartMarker start = true) (hsize : size ≠ 0)
  (hlength : payload.length = size.toNat)
include idle hstart hsize hlength

/-- The next byte of a frame is taken, and of the whole state only the decoder's registers change. -/
theorem rxByte_progress {b : Byte} {s : State} (hnext : done ++ [b] <+: start :: size :: payload)
    (gate : s.rxEnable = true) (hs : s.fd.Progress old done) :
    ∃ f, rxByte b s = .next { s with fd := f } ∧ f.Progress old (done ++ [b]) := by
  match done with
  | [] =>
    have hfd : s.fd = old := hs
    obtain ⟨rfl, -⟩ := List.cons_prefix_cons.mp hnext
    exact ⟨_, (RxStep.startMarker gate (hfd ▸ idle) hstart).rxByte_eq, by rw [hfd]; rfl⟩
  | [st] =>
    have hfd : s.fd = { old with chk := st, cnt := 0, state := .awaitingSize } := hs
    obtain ⟨rfl, htail⟩ := List.cons_prefix_cons.mp hnext
    obtain ⟨rfl, -⟩ := List.cons_prefix_cons.mp htail
    exact ⟨_, (RxStep.size gate (by rw [hfd]) hsize).rxByte_eq, Fd.Collected.rxSize hfd hsize⟩
  | st :: sz :: stored =>
    have hcollected : s.fd.Collected old st sz stored := hs
    obtain ⟨rfl, htail⟩ := List.cons_prefix_cons.mp hnext
    obtain ⟨rfl, hstored⟩ := List.cons_prefix_cons.mp htail
    have hlt : stored.length < sz.toNat := by
      have hle : (stored ++ [b]).length ≤ payload.length := hstored.length_le
      rw [List.length_append, List.length_singleton] at hle
      omega
    have phase := hcollected.state
    rw [if_neg (Nat.ne_of_lt hlt)] at phase
    refine ⟨(rxPayload b s).fd, ?_, hcollected.rxPayload hlt⟩
    rw [(RxStep.payload gate phase).rxByte_eq, rxPayload_eq]

/-- The bytes of a frame back to back. -/
theorem rxBytes_progress {rest : List Byte} {s : State}
    (hframe : done ++ rest <+: start :: size :: payload) (gate : s.rxEnable = true)
    (hs : s.fd.Progress old done) :
    ∃ f, rxBytes rest s = .next { s with fd := f } ∧ f.Progress old (done ++ rest) := by
  induction rest generalizing s done with
  | nil => exact ⟨s.fd, rfl, by rwa [List.append_nil]⟩
  | cons b rest ih =>
    rw [List.append_cons] at hframe ⊢
    obtain ⟨f, hf, hprogress⟩ := rxByte_progress idle hstart hsize hlength
      ((List.prefix_append (done ++ [b]) rest).trans hframe) gate hs
    rw [rxBytes_cons, hf, andThen_next]
    exact ih (s := { s with fd := f }) hframe gate hprogress

/-- One event of a run with the gate open: the frame's next byte, or an event that leaves the decoder alone. -/
theorem takeInput_progress {e : Input} {s t : State}
    (hnext : done ++ offeredBytes [e] <+: start :: size :: payload) (h : takeInput e s = .next t)
    (gate : s.rxEnable = true) (hopen : t.rxEnable = true) (hle : s.wd.elapsed ≤ s.cfg.elapsedMax)
    (hs : s.fd.Progress old done) :
    t.fd.Progress old (done ++ offeredBytes [e]) ∧ QuietSpan (tickCount [e]) s t := by
  by_cases hbyte : ∃ b, e = .rxByte b
  · obtain ⟨b, rfl⟩ := hbyte
    obtain ⟨f, hf, hprogress⟩ := rxByte_progress idle hstart hsize hlength hnext gate hs
    obtain rfl := Host.Outcome.next.inj (hf.symm.trans h)
    exact ⟨hprogress, .withFd hle f⟩
  · obtain ⟨hfd, hquiet⟩ := takeInput_quiet h (not_exists.mp hbyte) gate hopen hle
    rw [offeredBytes_singleton (not_exists.mp hbyte), List.append_nil, hfd]
    exact ⟨hs, hquiet⟩

/-- A list of events that offers the rest of a frame but its last byte, the gate open throughout. -/
theorem runInputs_progress {es : List Input} {s : State}
    (hframe : done ++ offeredBytes es = start :: size :: payload)
    (hopen : gateOpenAlong es s = true) (hle : s.wd.elapsed ≤ s.cfg.elapsedMax)
    (hs : s.fd.Progress old done) :
    ∃ u, runInputs es s = .next u ∧ u.rxEnable = true ∧ u.fd.Collected old start size payload ∧
      QuietSpan (tickCount es) s u := by
  induction es generalizing s done with
  | nil =>
    have hcollected : s.fd.Progress old (start :: size :: payload) := by
      rwa [← hframe, offeredBytes, List.append_nil]
    exact ⟨s, rfl, hopen, hcollected, .withFd hle s.fd⟩
  | cons e es ih =>
    obtain ⟨gate, t, ht, hopen'⟩ := gateOpenAlong_cons.mp hopen
    rw [offeredBytes_cons, ← List.append_assoc] at hframe
    obtain ⟨hprogress, hquiet⟩ := takeInput_progress idle hstart hsize hlength ⟨_, hframe⟩ ht gate
      (gateOpenAlong_start hopen') hle hs
    obtain ⟨u, hu, hgate, hcollected, hquiet'⟩ := ih hframe hopen' hquiet.elapsed_le hprogress
    rw [runInputs_cons, ht, andThen_next, tickCount_cons]
    exact ⟨u, hu, hgate, hcollected, hquiet.trans hquiet'⟩

end Frame

/-- Either row's frame begins with its start byte and ends with its checksum (R55, R58). -/
theorem encode_sized_of_start {i : Instr} {start c : Byte} {payload : List Byte}
    (h : start = 0x62 ∧ i = .rxFramePrimary (.sized payload c) ∨
      start = 0x61 ∧ i = .rxFrameLegacy (.sized payload c)) :
    isStartMarker start = true ∧ i.direction = .inbound ∧
      encode i = (start :: BitVec.ofNat 8 payload.length :: payload) ++ [c] := by
  rcases h with ⟨rfl, rfl⟩ | ⟨rfl, rfl⟩ <;> exact ⟨rfl, rfl, rfl⟩

/-- The encoder's frame reads as an inbound legacy frame: its size byte is the length of what follows up to
the checksum (`95_test_vectors.md` §2.2). -/
theorem outboundBody_eq_legacy (id : Byte) (p : Option Byte) : outboundBody id p =
    startLegacy :: BitVec.ofNat 8 (id :: p.toList).length :: id :: p.toList := by
  cases p <;> rfl

/-! ### The obligations -/

/-- Settles O16: the marker's case of the byte step. -/
theorem startMarkerOpensAttempt : Obligations.StartMarkerOpensAttempt :=
  fun _ _ gate idle hb => (RxStep.startMarker gate idle (isStartMarker_iff.mpr hb)).rxByte_eq

/-- Settles O17: the noise case of the byte step. -/
theorem noiseByteIgnored : Obligations.NoiseByteIgnored :=
  fun _ _ _ idle => rxByte_noise idle

/-- Settles O18: the zero size's case of the byte step. -/
theorem zeroSizeReportedAndRestarts : Obligations.ZeroSizeReportedAndRestarts :=
  fun _ gate phase => (RxStep.zeroSize gate phase rfl).rxByte_eq

/-- Settles O19: the size's case of the byte step. -/
theorem sizeByteRecorded : Obligations.SizeByteRecorded :=
  fun _ _ gate phase hsize => (RxStep.size gate phase hsize).rxByte_eq

/-- Settles O20: the payload's case of the byte step, whose buffer is one write. -/
theorem payloadByteStored : Obligations.PayloadByteStored := by
  intro s b gate phase
  refine ⟨s.fd.buf.write s.fd.cnt.toNat b, ?_, read_write_same _ _ _,
    fun k hk => read_write_other _ _ hk⟩
  have hstep : takeInput (.rxByte b) s = .next (rxPayload b s) := (RxStep.payload gate phase).rxByte_eq
  rw [hstep, rxPayload_eq, phase]

/-- Settles O21: the cells read as the payload, so the byte step emits the frame. -/
theorem matchingChecksumEmitsFrame : Obligations.MatchingChecksumEmitsFrame := by
  intro s b payload gate phase sum hlength hread
  have hcells : s.fd.buf.readRange 0 s.fd.size.toNat = some payload :=
    readRange_eq_some.mpr ⟨hlength, fun k hk => by rw [Nat.zero_add, hread k hk]⟩
  exact (RxStep.valid gate phase sum payload hcells).rxByte_eq

/-- Settles O22: the mismatch's case of the byte step. -/
theorem mismatchDropsFrame : Obligations.MismatchDropsFrame :=
  fun _ _ gate phase sum => (RxStep.mismatch gate phase sum).rxByte_eq

/-- Settles O24: the bytes before the last change the decoder's registers alone, and the last one decides. -/
theorem wholeFrameFromIdle : Obligations.WholeFrameFromIdle := by
  intro s i start c payload hi gate idle hmin hmax
  obtain ⟨hstart, hdir, hencode⟩ := encode_sized_of_start hi
  have hsize := sizeByte_ne_zero hmin hmax
  have hlength := (sizeByte_toNat hmax).symm
  have hprefix : ∀ bytes, bytes <+: start :: BitVec.ofNat 8 payload.length :: payload →
      ∃ f, rxBytes bytes s = .next { s with fd := f } ∧ f.Progress s.fd bytes := fun bytes hbytes =>
    rxBytes_progress (done := []) idle hstart hsize hlength hbytes gate rfl
  refine ⟨fun n hn => ?_, ?_⟩
  · rw [hencode, List.length_append, List.length_singleton] at hn
    rw [hencode, List.take_append_of_le_length (Nat.le_of_lt_succ hn)]
    obtain ⟨f, hf, -⟩ := hprefix _ (List.take_prefix n _)
    exact ⟨_, hf, rfl⟩
  · obtain ⟨f, hf, hprogress⟩ := hprefix _ (List.prefix_refl _)
    have hcollected : ({ s with fd := f } : State).fd.Collected s.fd start _ payload := hprogress
    refine ⟨f.buf, hcollected.read, hcollected.otherCells, ?_⟩
    rw [exec_inbound hdir, hencode, rxBytes_append, hf, andThen_next, rxBytes_cons,
      hcollected.rxByte_checksum hlength gate c, andThen_next, rxBytes_nil]
    split
    · rfl
    · have houtLen : f.outLen = s.fd.outLen := hcollected.outLen
      have houtChk : f.outChk = s.fd.outChk := hcollected.outChk
      simp only [houtLen, houtChk]

/-- Settles O27: a row is its frame's bytes, and each claim holds of every run of bytes. -/
theorem inboundRowsComplete : Obligations.InboundRowsComplete := by
  intro s t i hs hi
  have hdir : i.direction = .inbound := by rcases hi with rfl | rfl <;> rfl
  obtain ⟨u, hu⟩ := rxBytes_completes (bytes := encode i) ((inv_iff s).mp hs).1
  obtain ⟨hcfg, hpending, hfree⟩ := rxBytes_frame hu
  obtain ⟨added, houts, hwrites⟩ := rxBytes_writesOnlyWithFrame hu
  exact ⟨u, added, (exec_inbound hdir s).trans hu, houts, hcfg, hpending, hfree, rxBytes_cell hu,
    hwrites⟩

/-- Settles O28: each byte of the noise leaves the state as it was. -/
theorem noiseRunChangesNothing : Obligations.NoiseRunChangesNothing := by
  intro noise bytes s idle hnoise
  induction noise with
  | nil => rfl
  | cons b noise ih =>
    obtain ⟨⟨hlegacy, hprimary⟩, hrest⟩ := List.forall_mem_cons.mp hnoise
    rw [List.cons_append, rxBytes_cons, rxByte_noise idle hprimary hlegacy, andThen_next, ih hrest]

/-- Settles O29: a byte enters `AwaitingSize` as a marker only, the other events leave the decoder or
reset it. -/
theorem markerOnlyWhileIdle : Obligations.MarkerOnlyWhileIdle := by
  intro e s t h ht
  by_cases hbyte : ∃ b, e = .rxByte b
  · obtain ⟨b, rfl⟩ := hbyte
    rcases rxByte_awaitingSize h ht with hsize | ⟨idle, gate, marker⟩
    · exact .inl hsize
    · refine .inr ⟨idle, gate, ?_⟩
      rcases isStartMarker_iff.mp marker with rfl | rfl
      · exact .inr rfl
      · exact .inl rfl
  · by_cases hreset : e = .reset
    · subst hreset
      cases h
      cases ht
    · rw [takeInput_fd h (not_exists.mp hbyte) hreset] at ht
      exact .inl ht

/-- Settles O33: an encoder's frame is a legacy row's, with the right sum. -/
theorem encodedFramesLoopBack : Obligations.EncodedFramesLoopBack := by
  intro s id p gate idle
  have hmax : (id :: p.toList).length ≤ 255 := by cases p <;> simp
  have hencode : encode (.rxFrameLegacy (.sized (id :: p.toList) (sum8 (outboundBody id p)))) =
      encodeFrame id p := by
    rw [encodeFrame_eq_body, outboundBody_eq_legacy]
    rfl
  obtain ⟨-, m, -, -, hexec⟩ := wholeFrameFromIdle s _ startLegacy (sum8 (outboundBody id p))
    (id :: p.toList) (.inr ⟨rfl, rfl⟩) gate idle (Nat.succ_pos p.toList.length) hmax
  rw [exec_inbound rfl, hencode, ← outboundBody_eq_legacy, if_pos rfl] at hexec
  exact ⟨_, _, hexec, by rw [encodeFrame_eq_body, List.getLast?_concat], rfl⟩

/-- Settles O55: the run collects the payload quietly, and the last byte decides. -/
theorem frameAmongOtherEvents : Obligations.FrameAmongOtherEvents := by
  intro s es start c payload hstart hmin hmax idle hle hoffered hopen
  obtain ⟨u, hu, gate, hcollected, hquiet⟩ := runInputs_progress (done := []) idle
    (isStartMarker_iff.mpr hstart) (sizeByte_ne_zero hmin hmax) (sizeByte_toNat hmax).symm hoffered
    hopen hle rfl
  obtain ⟨quiet, houts, hevents⟩ := hquiet.outs
  exact ⟨u, quiet, hu, houts, hevents, hquiet.elapsed, hcollected.outLen, hcollected.outChk,
    hcollected.read, hcollected.otherCells,
    hcollected.rxByte_checksum (sizeByte_toNat hmax).symm gate c⟩

end Sys2Proof.Machine
end

section
/-! SUPPORT. The Command Encoder (`42_encoder.md`): a request's frame byte by byte (R87), the raw forms (R99) and
the nine listed commands (R90 to R98), and frames of the worked examples read back. -/

namespace Sys2Proof

/-- The checksum of a request without a payload byte, its constants summed (R62). -/
theorem encodeFrame_short (id : Byte) : encodeFrame id none = [0x61, 0x01, id, 0x62 + id] := by
  have hsum : txStart + (1 + (id + 0)) = 0x62 + id := by
    rw [add_zero, ← BitVec.add_assoc]
    rfl
  rw [encodeFrame_none, hsum]

/-- The checksum of a request with a payload byte, its constants summed (R62). -/
theorem encodeFrame_long (id p : Byte) :
    encodeFrame id (some p) = [0x61, 0x02, id, p, 0x63 + id + p] := by
  have hsum : txStart + (2 + (id + (p + 0))) = 0x63 + id + p := by
    rw [add_zero, ← BitVec.add_assoc, ← BitVec.add_assoc]
    rfl
  rw [encodeFrame_some, hsum]

/-- Settles O3: each frame is the one its instruction encodes to, so decoding gives the instruction back. -/
theorem writtenOutFramesDecode : Obligations.WrittenOutFramesDecode :=
  ⟨decodeOfEncode (.lightA 1) [] rfl, decodeOfEncode .beaconOn [] rfl,
    decodeOfEncode (.switch 0) [] rfl, decodeOfEncode .releaseFire [] rfl,
    decodeOfEncode (.cmdShort 0x36) [] rfl, decodeOfEncode (.cmdLong 0x39 1) [] rfl,
    decodeOfEncode (.rxFramePrimary (.sized [0x10, 0x20] 0x94)) [] rfl,
    decodeOfEncode (.rxFrameLegacy (.sized [0x41] 0xA3)) [] rfl,
    decodeOfEncode (.rxFramePrimary .zeroSize) [] rfl⟩

end Sys2Proof

namespace Sys2Proof.Machine

/-- A request writes the list of outputs alone (R38, R87). -/
theorem encodeRequest_of_frame {id : Byte} {p : Option Byte} {frame : List Byte}
    (hframe : encodeFrame id p = frame) (s : State) :
    encodeRequest id p s =
      .next { s with outs := s.outs ++ [.encoded frame (known id) (formOk id p)] } := by
  subst hframe
  rfl

/-- A row that a listed pair spells returns the pair's frame with both flags set (R66, R87). -/
theorem exec_listed {i : Instr} {id : Byte} {p : Option Byte} {frame : List Byte}
    (hrow : requestInstr id p = i) (hframe : encodeFrame id p = frame) (hknown : known id = true)
    (hform : formOk id p = true) (s : State) :
    exec i s = .next { s with outs := s.outs ++ [.encoded frame true true] } := by
  rw [← hrow, exec_requestInstr, encodeRequest_of_frame hframe, hknown, hform]

/-- Settles O13: a raw form is the request of its own id and payload byte. -/
theorem rawCommandsReturnFrames : Obligations.RawCommandsReturnFrames :=
  fun s id p => ⟨encodeRequest_of_frame (encodeFrame_short id) s,
    encodeRequest_of_frame (encodeFrame_long id p) s⟩

/-- Settles O12: each command is the row its pair spells, and a wrong form is a request like any other. -/
theorem listedCommandsReturnFrames : Obligations.ListedCommandsReturnFrames := by
  intro s b
  have hwrongForm : takeInput (.encode 0x39 (some 1)) s =
      .next { s with outs := s.outs ++ [.encoded [0x61, 0x02, 0x39, 0x01, 0x9D] true false] } :=
    (exec_requestInstr 0x39 (some 1) s).trans (encodeRequest_of_frame (encodeFrame_long 0x39 1) s)
  exact ⟨
    exec_listed rfl (encodeFrame_long 0x31 b) rfl rfl s,
    exec_listed rfl (encodeFrame_long 0x32 b) rfl rfl s,
    exec_listed rfl (encodeFrame_short 0x33) rfl rfl s,
    exec_listed rfl (encodeFrame_short 0x34) rfl rfl s,
    exec_listed rfl (encodeFrame_long 0x34 b) rfl rfl s,
    exec_listed rfl (encodeFrame_short 0x35) rfl rfl s,
    exec_listed rfl (encodeFrame_short 0x37) rfl rfl s,
    exec_listed rfl (encodeFrame_short 0x38) rfl rfl s,
    exec_listed rfl (encodeFrame_short 0x39) rfl rfl s,
    rfl, rfl, rfl, rfl, rfl, rfl, rfl, hwrongForm⟩

end Sys2Proof.Machine
end

section
/-! SUPPORT. The Connection Watchdog (`43_watchdog.md`): the tick case by case, who writes which register, the
elapsed time as the age of the latest liveness, and the countdown to the next request. -/

namespace Sys2Proof.Machine

/-! ### The tick case by case -/

theorem tick_offCadence {s : State} (h : s.wd.checkDiv + 1 ≠ s.cfg.checkPeriod) :
    tick s = s.setCounters (satInc s.cfg.elapsedMax s.wd.elapsed) (s.wd.checkDiv + 1) :=
  (tick_eq s).trans (if_neg h)

theorem tick_onCadence {s : State} (h : s.wd.checkDiv + 1 = s.cfg.checkPeriod) :
    tick s = check (s.setCounters (satInc s.cfg.elapsedMax s.wd.elapsed) 0) :=
  (tick_eq s).trans (if_pos h)

theorem le_satInc (max v : Nat) : v ≤ satInc max v := by
  unfold satInc
  split <;> omega

theorem satInc_le_succ (max v : Nat) : satInc max v ≤ v + 1 := by
  unfold satInc
  split <;> omega

/-- A saturated counter still reads as stalled (R14, R100). -/
theorem lt_satInc_add {threshold max v n : Nat} (hmax : threshold < max)
    (h : threshold < v + (n + 1)) : threshold < satInc max v + n := by
  unfold satInc
  split <;> omega

/-- A tick while a request is outstanding emits nothing and keeps waiting (R102). -/
theorem tick_reconnecting {s : State} (h : s.wd.state = .reconnecting) :
    (tick s).outs = s.outs ∧ (tick s).wd.state = .reconnecting := by
  rcases tick_inversion s with ⟨houts, hstate⟩ | ⟨-, hidle, -⟩
  · exact ⟨houts, hstate.trans h⟩
  · rw [h] at hidle
    cases hidle

/-! ### Who writes the watchdog's registers and who requests -/

/-- Of the watchdog's registers a byte writes the elapsed time alone (R109). -/
theorem rxByte_wd {b : Byte} {s t : State} (h : rxByte b s = .next t) :
    t.wd = { s.wd with elapsed := t.wd.elapsed } := by
  cases rxByte_inversion h with
  | dropped | startMarker | noise | zeroSize | size | valid | mismatch => rfl
  | payload => simp

/-- A request and a read of the buffer leave the registers of both units (R38, R42). -/
theorem takeInput_encode_registers {id : Byte} {p : Option Byte} {s t : State}
    (h : takeInput (.encode id p) s = .next t) : t.fd = s.fd ∧ t.wd = s.wd := by
  rw [takeInput_encode] at h
  cases h
  exact ⟨rfl, rfl⟩

theorem takeInput_bufRead_registers {i : Byte} {s t : State}
    (h : takeInput (.bufRead i) s = .next t) : t.fd = s.fd ∧ t.wd = s.wd := by
  obtain ⟨v, -, rfl⟩ := bufRead_inversion h
  exact ⟨rfl, rfl⟩

/-- A byte that emits no frame leaves the watchdog (R107). -/
theorem rxByte_wd_of_no_frame {b : Byte} {s t : State} {added : List Output}
    (h : rxByte b s = .next t) (houts : t.outs = s.outs ++ added)
    (hframe : ∀ p c v, .frameOut p c v ∉ added) : t.wd = s.wd := by
  obtain ⟨added', houts', hwrites⟩ := rxByte_writesOnlyWithFrame h
  obtain rfl : added = added' := List.append_cancel_left (houts.symm.trans houts')
  rcases hwrites with ⟨hwd, -⟩ | ⟨-, p, c, hmem⟩
  · exact hwd
  · exact absurd hmem (hframe p c true)

theorem rxByte_requests_nothing {b : Byte} {s t : State} {added : List Output}
    (h : rxByte b s = .next t) (houts : t.outs = s.outs ++ added) (r : Bool) :
    .reconnectReq r ∉ added := by
  cases rxByte_inversion h with
  | dropped | startMarker | noise | size | payload => simp_all
  | zeroSize | mismatch | valid =>
    obtain rfl := List.append_cancel_left houts
    simp

/-- A successful answer emits nothing and a failed one a status alone (R104, R105, R106). -/
theorem xportResult_requests_nothing {ok : Bool} {s : State} {added : List Output}
    (houts : (xportResult ok s).outs = s.outs ++ added) (r : Bool) : .reconnectReq r ∉ added := by
  cases hs : s.wd.state with
  | idle => simp_all [xportResult_idle ok hs]
  | reconnecting =>
    cases ok with
    | false =>
      rw [xportResult_false hs] at houts
      obtain rfl := List.append_cancel_left houts
      simp
    | true => simp_all [xportResult_true hs]

/-- Only a tick asks the transport for anything (R103, R123). -/
theorem request_only_from_tick {e : Input} {s t : State} {added : List Output} {r : Bool}
    (h : takeInput e s = .next t) (houts : t.outs = s.outs ++ added)
    (hr : .reconnectReq r ∈ added) : e = .tick := by
  cases e with
  | tick => rfl
  | reset =>
    cases h
    simp_all
  | rxByte b => exact absurd hr (rxByte_requests_nothing h houts r)
  | xportResult ok =>
    cases h
    exact absurd hr (xportResult_requests_nothing houts r)
  | encode id p =>
    rw [takeInput_encode] at h
    cases h
    obtain rfl := List.append_cancel_left houts
    simp at hr
  | bufRead i =>
    obtain ⟨v, -, rfl⟩ := bufRead_inversion h
    obtain rfl := List.append_cancel_left houts
    simp at hr

/-- An event is a tick or leaves the watchdog, as long as it is no reset, no answer and no valid frame. -/
theorem takeInput_wd_of_no_frame {e : Input} {s t : State} {added : List Output}
    (h : takeInput e s = .next t) (hreset : e ≠ .reset) (hanswer : ∀ r, e ≠ .xportResult r)
    (htick : e ≠ .tick) (houts : t.outs = s.outs ++ added)
    (hframe : ∀ p c v, .frameOut p c v ∉ added) : t.wd = s.wd := by
  cases e with
  | reset => exact absurd rfl hreset
  | tick => exact absurd rfl htick
  | xportResult ok => exact absurd rfl (hanswer ok)
  | rxByte b => exact rxByte_wd_of_no_frame h houts hframe
  | encode id p => exact (takeInput_encode_registers h).2
  | bufRead i => exact (takeInput_bufRead_registers h).2

/-! ### An outstanding request -/

/-- While a request is outstanding an event that is no reset and no answer ends no wait, and emits no
event: bytes are dropped and checks do nothing (R102, R108, R112). -/
theorem takeInput_reconnecting {e : Input} {s t : State} (h : takeInput e s = .next t)
    (hs : s.wd.state = .reconnecting) (hreset : e ≠ .reset) (hanswer : ∀ ok, e ≠ .xportResult ok) :
    t.wd.state = .reconnecting ∧
      ∃ added, t.outs = s.outs ++ added ∧ ∀ o ∈ added, Output.isEvent o = false := by
  cases e with
  | reset => exact absurd rfl hreset
  | xportResult ok => exact absurd rfl (hanswer ok)
  | rxByte b =>
    cases (rxByte_closed (rxEnable_false_of_reconnecting hs) b).symm.trans h
    exact ⟨hs, [], (List.append_nil _).symm, by simp⟩
  | tick =>
    cases h
    obtain ⟨houts, hstate⟩ := tick_reconnecting hs
    exact ⟨hstate, [], by rw [houts, List.append_nil], by simp⟩
  | encode id p =>
    rw [takeInput_encode] at h
    cases h
    exact ⟨hs, _, rfl, by simp [Output.isEvent]⟩
  | bufRead i =>
    obtain ⟨v, -, rfl⟩ := bufRead_inversion h
    exact ⟨hs, _, rfl, by simp [Output.isEvent]⟩

/-! ### The elapsed time -/

/-- A liveness step clears the elapsed time (R80, R104). -/
theorem elapsed_of_liveness {e : Input} {s t : State} (h : takeInput e s = .next t)
    (hlive : e.isLiveness s = true) : t.wd.elapsed = 0 := by
  cases e with
  | rxByte b =>
    simp only [Input.isLiveness, Bool.and_eq_true, decide_eq_true_eq] at hlive
    obtain ⟨⟨gate, phase⟩, sum⟩ := hlive
    cases rxByte_inversion h with
    | valid => rfl
    | dropped | startMarker | noise | zeroSize | size | payload | mismatch => simp_all
  | xportResult ok =>
    simp only [Input.isLiveness, Bool.and_eq_true, decide_eq_true_eq] at hlive
    obtain ⟨rfl, hs⟩ := hlive
    cases h
    rw [xportResult_true hs]
  | reset | tick | encode | bufRead => cases hlive

/-- Every other step but `Reset` leaves the elapsed time or is a tick, which counts it up (R100, R107). -/
theorem elapsed_of_no_liveness {e : Input} {s t : State} (h : takeInput e s = .next t)
    (hreset : e ≠ .reset) (hlive : e.isLiveness s = false) :
    t.wd.elapsed = if e = .tick then satInc s.cfg.elapsedMax s.wd.elapsed else s.wd.elapsed := by
  cases e with
  | reset => exact absurd rfl hreset
  | tick =>
    cases h
    obtain ⟨-, -, -, -, -, helapsed, -⟩ := tick_frame s
    exact helapsed
  | rxByte b =>
    cases rxByte_inversion h with
    | valid gate phase sum => simp [Input.isLiveness, gate, phase, sum] at hlive
    | dropped | startMarker | noise | zeroSize | size | mismatch => rfl
    | payload => simp
  | xportResult ok =>
    cases h
    cases hs : s.wd.state with
    | idle => simp [xportResult_idle ok hs]
    | reconnecting =>
      cases ok with
      | false => simp [xportResult_false hs]
      | true => simp [Input.isLiveness, hs] at hlive
  | encode id p => simp [(takeInput_encode_registers h).2]
  | bufRead i => simp [(takeInput_bufRead_registers h).2]

theorem tickCount_singleton (e : Input) : tickCount [e] = if e = .tick then 1 else 0 := by
  cases e <;> rfl

theorem lastLivenessTime_cons {e : Input} {es : List Input} {s t : State} (now last : Nat)
    (h : takeInput e s = .next t) :
    lastLivenessTime (e :: es) s now last =
      lastLivenessTime es t (now + tickCount [e])
        (if e.isLiveness s then now + tickCount [e] else last) := by
  simp only [lastLivenessTime, h]

/-- One step of R110: a time that the elapsed counter measured stays measured by it. -/
theorem elapsed_step {e : Input} {s t : State} {now last : Nat} (h : takeInput e s = .next t)
    (hreset : e ≠ .reset) (hlast : last ≤ now)
    (hs : s.wd.elapsed = min (now - last) s.cfg.elapsedMax) :
    t.wd.elapsed =
      min (now + tickCount [e] - if e.isLiveness s then now + tickCount [e] else last)
        s.cfg.elapsedMax := by
  cases hlive : e.isLiveness s with
  | true => simp [elapsed_of_liveness h hlive]
  | false =>
    have hle : s.wd.elapsed ≤ s.cfg.elapsedMax := hs ▸ Nat.min_le_right _ _
    rw [elapsed_of_no_liveness h hreset hlive, tickCount_singleton, satInc_eq_min hle]
    simp only [Bool.false_eq_true, if_false]
    split <;> omega

/-- R110 from any point of a run on, where `now` and `last` are the tick count and its value at the latest
liveness step so far. -/
theorem elapsed_eq_time_since {es : List Input} {s t : State} {now last : Nat}
    (hreset : .reset ∉ es) (hlast : last ≤ now)
    (hs : s.wd.elapsed = min (now - last) s.cfg.elapsedMax) (h : runInputs es s = .next t) :
    t.wd.elapsed =
      min (now + tickCount es - lastLivenessTime es s now last) s.cfg.elapsedMax := by
  induction es generalizing s now last with
  | nil =>
    cases h
    exact hs
  | cons e es ih =>
    obtain ⟨he, hes⟩ := not_or.mp (List.mem_cons.not.mp hreset)
    obtain ⟨u, hu, ht⟩ := andThen_eq_next.mp h
    have hcfg : u.cfg = s.cfg := (cfg_keptByEvents s.cfg).takeInput hu rfl
    have hstep := elapsed_step hu (Ne.symm he) hlast hs
    rw [← hcfg] at hstep
    have hrun := ih hes (by split <;> omega) hstep ht
    have hnow : now + tickCount (e :: es) = now + tickCount [e] + tickCount es := by
      rw [tickCount_cons]
      omega
    rw [hrun, lastLivenessTime_cons now last hu, hnow, hcfg]

/-! ### The countdown to the next request -/

/-- As long as no liveness comes, the `m`-th tick from here is the first that requests a reconnect: it is
a check that finds no link or a stall, and every check before it finds neither (R101). -/
structure Wd.RequestDueIn (w : Wd) (c : Config) (m : Nat) : Prop where
  config : c.valid = true
  idle : w.state = .idle
  divider : w.checkDiv < c.checkPeriod
  pos : 0 < m
  check : (w.checkDiv + m) % c.checkPeriod = 0
  due : w.linkDown = true ∨ c.stallThreshold < w.elapsed + m
  early : ∀ k, 0 < k → k < m → (w.checkDiv + k) % c.checkPeriod = 0 →
    w.linkDown = false ∧ w.elapsed + k ≤ c.stallThreshold

/-- The next tick checks exactly when it completes the period. -/
theorem checkDiv_succ_mod {d period : Nat} (hd : d < period) :
    (d + 1) % period = 0 ↔ d + 1 = period := by
  constructor
  · intro h
    by_contra hne
    rw [Nat.mod_eq_of_lt (by omega)] at h
    omega
  · rintro rfl
    exact Nat.mod_self _

/-- The divider after a tick, and its distance to each later check (R100). -/
theorem tick_divider {s : State} (hd : s.wd.checkDiv < s.cfg.checkPeriod) :
    (tick s).wd.checkDiv < s.cfg.checkPeriod ∧
      ∀ k, ((tick s).wd.checkDiv + k) % s.cfg.checkPeriod =
        (s.wd.checkDiv + (k + 1)) % s.cfg.checkPeriod := by
  obtain ⟨-, -, -, -, -, -, hdiv⟩ := tick_frame s
  rw [hdiv]
  split
  · next hcheck =>
    refine ⟨by omega, fun k => ?_⟩
    have hsum : s.wd.checkDiv + (k + 1) = s.cfg.checkPeriod + k := by omega
    rw [hsum, Nat.add_mod_left, Nat.zero_add]
  · exact ⟨by omega, fun k => by rw [Nat.add_assoc, Nat.add_comm 1]⟩

/-- The tick that is due requests. -/
theorem tick_requests_of_due {s : State} {added : List Output} (h : s.wd.RequestDueIn s.cfg 1)
    (houts : (tick s).outs = s.outs ++ added) : ∃ r, .reconnectReq r ∈ added := by
  rw [tick_onCadence ((checkDiv_succ_mod h.divider).mp h.check)] at houts
  cases hl : s.wd.linkDown with
  | true =>
    rw [check_connect (s := s.setCounters _ 0) h.idle hl] at houts
    obtain rfl := List.append_cancel_left houts
    exact ⟨false, by simp⟩
  | false =>
    have hdue : s.cfg.stallThreshold < s.wd.elapsed + (0 + 1) := by simpa [hl] using h.due
    have hstall : s.cfg.stallThreshold <
        (s.setCounters (satInc s.cfg.elapsedMax s.wd.elapsed) 0).wd.elapsed :=
      lt_satInc_add ((valid_iff _).mp h.config).2 hdue
    rw [check_stall (s := s.setCounters _ 0) h.idle hl hstall] at houts
    obtain rfl := List.append_cancel_left houts
    exact ⟨true, by simp⟩

/-- A tick before the due one writes the two counters alone. -/
theorem tick_only_counts_before_due {s : State} {m : Nat} (h : s.wd.RequestDueIn s.cfg (m + 1))
    (hm : 0 < m) : ∃ elapsed div, tick s = s.setCounters elapsed div := by
  by_cases hcheck : s.wd.checkDiv + 1 = s.cfg.checkPeriod
  · obtain ⟨hup, hquiet⟩ :=
      h.early 1 Nat.one_pos (by omega) ((checkDiv_succ_mod h.divider).mpr hcheck)
    rw [tick_onCadence hcheck]
    exact ⟨_, _, check_quiet (s := s.setCounters _ 0) h.idle hup
      ((satInc_le_succ _ _).trans hquiet)⟩
  · exact ⟨_, _, tick_offCadence hcheck⟩

/-- A tick before the due one emits nothing and moves the countdown on by one. -/
theorem tick_countdown {s : State} {m : Nat} (h : s.wd.RequestDueIn s.cfg (m + 1)) (hm : 0 < m) :
    (tick s).outs = s.outs ∧ (tick s).wd.RequestDueIn s.cfg m := by
  obtain ⟨-, -, -, -, hdown, helapsed, -⟩ := tick_frame s
  obtain ⟨hdivider, hcheck⟩ := tick_divider h.divider
  obtain ⟨_, _, hcounts⟩ := tick_only_counts_before_due h hm
  refine ⟨by rw [hcounts, setCounters_outs],
    { config := h.config, idle := ?_, divider := hdivider, pos := hm, check := ?_, due := ?_,
      early := fun k hk hkm hkcheck => ?_ }⟩
  · rw [hcounts, setCounters_wd]
    exact h.idle
  · rw [hcheck]
    exact h.check
  · rw [hdown, helapsed]
    exact h.due.imp_right (lt_satInc_add ((valid_iff _).mp h.config).2)
  · rw [hcheck] at hkcheck
    obtain ⟨hup, hquiet⟩ := h.early (k + 1) (Nat.succ_pos k) (by omega) hkcheck
    have hle := satInc_le_succ s.cfg.elapsedMax s.wd.elapsed
    rw [hdown, helapsed]
    exact ⟨hup, by omega⟩

/-- One event of the countdown: the tick that is due requests, and any other event but a reset, an answer
or a valid frame requests nothing and leaves the rest of the countdown. -/
theorem takeInput_countdown {e : Input} {s t : State} {added : List Output} {m : Nat}
    (hdue : s.wd.RequestDueIn s.cfg m) (h : takeInput e s = .next t) (hreset : e ≠ .reset)
    (hanswer : ∀ r, e ≠ .xportResult r) (houts : t.outs = s.outs ++ added)
    (hframe : ∀ p c v, .frameOut p c v ∉ added) :
    (m ≤ tickCount [e] ∧ ∃ r, .reconnectReq r ∈ added) ∨
      ∃ n, m = n + tickCount [e] ∧ t.wd.RequestDueIn t.cfg n ∧ ∀ r, .reconnectReq r ∉ added := by
  have hcfg : t.cfg = s.cfg := (cfg_keptByEvents s.cfg).takeInput h rfl
  by_cases htick : e = .tick
  · subst htick
    cases h
    obtain ⟨n, rfl⟩ := Nat.exists_eq_add_one.mpr hdue.pos
    rcases n.eq_zero_or_pos with rfl | hn
    · exact .inl ⟨Nat.le_refl 1, tick_requests_of_due hdue houts⟩
    · obtain ⟨hquiet, hnext⟩ := tick_countdown hdue hn
      obtain rfl := List.self_eq_append_right.mp (hquiet.symm.trans houts)
      exact .inr ⟨n, rfl, hcfg ▸ hnext, by simp⟩
  · have hwd := takeInput_wd_of_no_frame h hreset hanswer htick houts hframe
    refine .inr ⟨m, by simp [tickCount_singleton, htick], by rwa [hwd, hcfg], fun r hr => ?_⟩
    exact htick (request_only_from_tick h houts hr)

/-- Outputs are only appended along a run. -/
theorem runInputs_outs {es : List Input} {s t : State} (h : runInputs es s = .next t) :
    ∃ added, t.outs = s.outs ++ added := by
  induction es generalizing s with
  | nil =>
    cases h
    exact ⟨[], (List.append_nil _).symm⟩
  | cons e es ih =>
    obtain ⟨u, hu, ht⟩ := andThen_eq_next.mp h
    obtain ⟨xs, hxs⟩ := takeInput_appendsOuts e hu
    obtain ⟨ys, hys⟩ := ih ht
    exact ⟨xs ++ ys, by rw [hys, outs_of_appends hu hxs, List.append_assoc]⟩

/-- The countdown along a run without reset, answer and valid frame: the request is there exactly from the
`m`-th tick on. -/
theorem request_iff_of_due {es : List Input} {s t : State} {added : List Output} {m : Nat}
    (hdue : s.wd.RequestDueIn s.cfg m) (hreset : .reset ∉ es) (hanswer : ∀ r, .xportResult r ∉ es)
    (h : runInputs es s = .next t) (houts : t.outs = s.outs ++ added)
    (hframe : ∀ p c v, .frameOut p c v ∉ added) :
    (∃ r, .reconnectReq r ∈ added) ↔ m ≤ tickCount es := by
  induction es generalizing s m added with
  | nil =>
    cases h
    obtain rfl := List.self_eq_append_right.mp houts
    simp [tickCount, hdue.pos.ne']
  | cons e es ih =>
    obtain ⟨u, hu, ht⟩ := andThen_eq_next.mp h
    obtain ⟨xs, hxs⟩ := takeInput_appendsOuts e hu
    obtain ⟨ys, hys⟩ := runInputs_outs ht
    have huouts := outs_of_appends hu hxs
    obtain rfl : added = xs ++ ys := by
      rw [hys, huouts, List.append_assoc] at houts
      exact (List.append_cancel_left houts).symm
    simp only [List.mem_append, not_or, forall_and] at hframe
    simp only [List.mem_cons, not_or, forall_and] at hreset hanswer
    obtain ⟨hframexs, hframeys⟩ := hframe
    obtain ⟨hresete, hresetes⟩ := hreset
    obtain ⟨hanswere, hansweres⟩ := hanswer
    rw [tickCount_cons]
    rcases takeInput_countdown hdue hu (Ne.symm hresete) (fun r => Ne.symm (hanswere r)) huouts
      hframexs with ⟨hm, r, hr⟩ | ⟨n, rfl, hnext, hnone⟩
    · exact iff_of_true ⟨r, List.mem_append_left ys hr⟩ (Nat.le_add_left_of_le hm)
    · simpa [hnone] using ih hnext hresetes hansweres ht hys hframeys

/-- From any number on, a check tick comes within one period. -/
theorem exists_first_check {period : Nat} (hperiod : 0 < period) (d least : Nat) :
    ∃ m, least ≤ m ∧ m + 1 ≤ least + period ∧ (d + m) % period = 0 ∧
      ∀ k, least ≤ k → k < m → (d + k) % period ≠ 0 := by
  have hex : ∃ m, least ≤ m ∧ m + 1 ≤ least + period ∧ (d + m) % period = 0 := by
    have hlt := Nat.mod_lt (d + least) hperiod
    rcases Nat.eq_zero_or_pos ((d + least) % period) with hzero | hpos
    · exact ⟨least, le_rfl, by omega, hzero⟩
    · refine ⟨least + (period - (d + least) % period), by omega, by omega, ?_⟩
      rw [← Nat.add_assoc, ← Nat.mod_add_mod, Nat.add_sub_of_le hlt.le, Nat.mod_self]
  obtain ⟨hleast, hbound, hcheck⟩ := Nat.find_spec hex
  refine ⟨Nat.find hex, hleast, hbound, hcheck, fun k hk hkm hkcheck => ?_⟩
  exact Nat.find_min hex hkm ⟨hk, by omega, hkcheck⟩

/-- How many ticks after an answer the next request can come at the earliest (R111). -/
def State.leastSpacing (s : State) (ok : Bool) : Nat := if ok then s.cfg.stallThreshold + 1 else 1

/-- An answer starts the countdown to the first check tick past the least spacing. -/
theorem xportResult_countdown {s : State} {ok : Bool} {m : Nat} (hs : s.wd.state = .reconnecting)
    (hconfig : s.cfg.valid = true) (hdiv : s.wd.checkDiv < s.cfg.checkPeriod)
    (hleast : s.leastSpacing ok ≤ m)
    (hcheck : (s.wd.checkDiv + m) % s.cfg.checkPeriod = 0)
    (hfirst : ∀ k, s.leastSpacing ok ≤ k → k < m →
      (s.wd.checkDiv + k) % s.cfg.checkPeriod ≠ 0) :
    (xportResult ok s).wd.RequestDueIn (xportResult ok s).cfg m := by
  cases ok with
  | true =>
    rw [xportResult_true hs]
    have hspacing : s.leastSpacing true = s.cfg.stallThreshold + 1 := rfl
    exact {
      config := hconfig, idle := rfl, divider := hdiv, pos := by omega, check := hcheck
      due := .inr (by simpa [hspacing] using hleast)
      early := fun k _ hkm hkcheck => by
        have hk : ¬ s.leastSpacing true ≤ k := fun hk => hfirst k hk hkm hkcheck
        exact ⟨rfl, by simp only; omega⟩ }
  | false =>
    rw [xportResult_false hs]
    exact {
      config := hconfig, idle := rfl, divider := hdiv, pos := hleast, check := hcheck
      due := .inl rfl
      early := fun k hk hkm hkcheck => absurd hkcheck (hfirst k hk hkm) }

/-! ### The obligations -/

/-- Settles O42: the answer starts a countdown, which only ticks move on. -/
theorem reconnectSpacing : Obligations.ReconnectSpacing := by
  intro s ok hconfig hs hdiv _ least
  obtain ⟨m, hleast, hbound, hcheck, hfirst⟩ :=
    exists_first_check ((valid_iff _).mp hconfig).1 s.wd.checkDiv least
  have hdue := xportResult_countdown hs hconfig hdiv hleast hcheck hfirst
  exact ⟨m, _, hleast, hbound, hcheck, hfirst, rfl, fun es t added => request_iff_of_due hdue⟩

/-- Settles O37: one case of the tick after another, with what its check does. -/
theorem tickCountsAndChecks : Obligations.TickCountsAndChecks := by
  intro s now
  refine ⟨fun hoff => congrArg Host.Outcome.next (tick_offCadence hoff),
    fun hon hs => ?reconnecting, fun hon hs hdown => ?connect, fun hon hs hup hle => ?quiet,
    fun hon hs hup hlt => ?stall⟩ <;>
    refine congrArg Host.Outcome.next ((tick_onCadence hon).trans ?_)
  case reconnecting => exact check_reconnecting (s := s.setCounters now 0) hs
  case connect => exact check_connect (s := s.setCounters now 0) hs hdown
  case quiet => exact check_quiet (s := s.setCounters now 0) hs hup hle
  case stall => exact check_stall (s := s.setCounters now 0) hs hup hlt

/-- Settles O39: a liveness step clears the counter, the other events keep it or count it up. -/
theorem onlyLivenessClearsElapsed : Obligations.OnlyLivenessClearsElapsed := by
  intro e s t hreset h
  refine ⟨elapsed_of_liveness h, fun hlive => ?_⟩
  rw [elapsed_of_no_liveness h hreset hlive]
  split
  · exact le_satInc _ _
  · exact le_rfl

/-- Settles O40: the count since the latest liveness, from the start of the run. -/
theorem elapsedIsTimeSinceLiveness : Obligations.ElapsedIsTimeSinceLiveness := by
  intro es s t hreset hzero h
  have hrun := elapsed_eq_time_since (now := 0) (last := 0) hreset le_rfl (by simp [hzero]) h
  rwa [Nat.zero_add] at hrun

/-- Settles O41: one clause per event. -/
theorem unitsWriteTheirOwnRegisters : Obligations.UnitsWriteTheirOwnRegisters := fun _ _ =>
  ⟨fun h => takeInput_fd h nofun nofun, fun _ h => takeInput_fd h nofun nofun, fun _ => rxByte_wd,
    fun _ _ => takeInput_encode_registers, fun _ => takeInput_bufRead_registers⟩

/-- Settles O43: every event of such a run keeps the wait and emits no event. -/
theorem oneReconnectInFlight : Obligations.OneReconnectInFlight := by
  intro es s t hs hes h
  induction es generalizing s with
  | nil =>
    cases h
    exact ⟨hs, [], (List.append_nil _).symm, by simp⟩
  | cons e es ih =>
    obtain ⟨⟨hreset, hanswer⟩, hrest⟩ := List.forall_mem_cons.mp hes
    obtain ⟨u, hu, ht⟩ := andThen_eq_next.mp h
    obtain ⟨hstate, xs, hxs, hquiet⟩ := takeInput_reconnecting hu hs hreset hanswer
    obtain ⟨hend, ys, hys, hquiet'⟩ := ih u hstate hrest ht
    exact ⟨hend, xs ++ ys, by rw [hys, hxs, List.append_assoc],
      List.forall_mem_append.mpr ⟨hquiet, hquiet'⟩⟩

/-- Settles O38: an answer while a request is outstanding, and one that nobody asked for. -/
theorem transportAnswers : Obligations.TransportAnswers := fun _ =>
  ⟨fun hs => congrArg _ (xportResult_true hs), fun hs => congrArg _ (xportResult_false hs),
    fun hs ok => congrArg _ (xportResult_idle ok hs)⟩

end Sys2Proof.Machine
end

section
/-! SUPPORT. Conditions and events (`60_exceptions.md`): what one step can emit, the tick that requests, a clock
as the run of its events, and why no step stops. -/

namespace Sys2Proof.Machine

/-! ### What one step emits -/

/-- A byte emits at most one event, and which one its rule says (R77, R80, R81). -/
theorem rxByte_events {b : Byte} {s t : State} (h : rxByte b s = .next t) :
    ∃ added, t.outs = s.outs ++ added ∧
      (added = [] ∨ (∃ p c, added = [.frameOut p c true]) ∨ added = [.status .zeroSize] ∨
        ∃ r c, added = [.status (.checksumMismatch r c)]) := by
  cases rxByte_inversion h with
  | dropped | startMarker | noise | size => exact ⟨[], (List.append_nil _).symm, .inl rfl⟩
  | payload => exact ⟨[], by simp, .inl rfl⟩
  | valid _ _ _ payload => exact ⟨_, rfl, .inr (.inl ⟨payload, b, rfl⟩)⟩
  | zeroSize => exact ⟨_, rfl, .inr (.inr (.inl rfl))⟩
  | mismatch => exact ⟨_, rfl, .inr (.inr (.inr ⟨b, s.fd.chk, rfl⟩))⟩

/-- A tick emits nothing, or a request, with a `Stall` before it when there is a link (R101). -/
theorem tick_events (s : State) :
    ∃ added, (tick s).outs = s.outs ++ added ∧
      (added = [] ∨ (∃ r, added = [.reconnectReq r]) ∨
        ∃ n r, added = [.status (.stall n), .reconnectReq r]) := by
  rcases tick_inversion s with ⟨houts, -⟩ | ⟨-, -, ⟨-, houts⟩ | ⟨-, n, houts⟩⟩
  · exact ⟨[], by rw [houts, List.append_nil], .inl rfl⟩
  · exact ⟨_, houts, .inr (.inl ⟨false, rfl⟩)⟩
  · exact ⟨_, houts, .inr (.inr ⟨n, true, rfl⟩)⟩

/-- Only a failed answer to an outstanding request emits an event (R105). -/
theorem xportResult_events (ok : Bool) (s : State) :
    ∃ added, (xportResult ok s).outs = s.outs ++ added ∧
      (added = [] ∨ added = [.status .acquireFail]) := by
  cases hs : s.wd.state with
  | idle => exact ⟨[], by rw [xportResult_idle ok hs, List.append_nil], .inl rfl⟩
  | reconnecting =>
    cases ok with
    | true => exact ⟨[], by rw [xportResult_true hs, List.append_nil], .inl rfl⟩
    | false => exact ⟨_, by rw [xportResult_false hs], .inr rfl⟩

/-! ### The tick that requests -/

/-- A tick that requests is a check tick from `IDLE`; it releases a handle exactly when there is one, and
then the link has stalled (R100, R101, R103). -/
theorem tick_of_request {s : State} {added : List Output} {r : Bool}
    (houts : (tick s).outs = s.outs ++ added) (hr : .reconnectReq r ∈ added) :
    s.wd.checkDiv + 1 = s.cfg.checkPeriod ∧ s.wd.state = .idle ∧
      (tick s).wd.state = .reconnecting ∧ r = !s.wd.linkDown ∧
      (s.wd.linkDown = false → s.cfg.stallThreshold < (tick s).wd.elapsed) := by
  by_cases hon : s.wd.checkDiv + 1 = s.cfg.checkPeriod
  · rw [tick_onCadence hon] at houts ⊢
    rcases check_inversion (s.setCounters (satInc s.cfg.elapsedMax s.wd.elapsed) 0) with
      h | ⟨hidle, hdown, h⟩ | ⟨hidle, hup, hlt, h⟩ <;> rw [h] at houts ⊢
    · obtain rfl := List.self_eq_append_right.mp houts
      cases hr
    · obtain rfl := List.append_cancel_left houts
      obtain rfl : r = false := by simpa using hr
      replace hdown : s.wd.linkDown = true := hdown
      exact ⟨hon, hidle, rfl, by simp [hdown], by simp [hdown]⟩
    · obtain rfl := List.append_cancel_left houts
      obtain rfl : r = true := by simpa using hr
      replace hup : s.wd.linkDown = false := hup
      exact ⟨hon, hidle, rfl, by simp [hup], fun _ => hlt⟩
  · rw [tick_offCadence hon] at houts
    obtain rfl := List.self_eq_append_right.mp houts
    cases hr

/-! ### A clock is the run of its events -/

/-- A clock's byte and tick, each if present: only the byte can stop. -/
theorem runInputs_byteThenTick (p : ClockIn) (s : State) :
    runInputs ((if p.rxValid then [.rxByte p.rxByte] else []) ++ (if p.tick then [.tick] else [])) s =
      andThen (if p.rxValid then rxByte p.rxByte s else .next s) fun t =>
        .next (if p.tick then tick t else t) := by
  have htick : runInputs (if p.tick then [.tick] else []) =
      fun t => .next (if p.tick then tick t else t) := by
    cases p.tick <;> rfl
  cases p.rxValid with
  | true => simp [takeInput, htick]
  | false => simp [htick]

/-- The gate of a clock where its byte is offered: after the answer, and low in a reset clock (log 10). -/
def ClockIn.ready (p : ClockIn) (s : State) : Bool :=
  (if p.rst then resetEvent s else if p.xportDone then xportResult p.xportOk s else s).rxEnable

/-- A clock runs its events in their order and closes (R121, R143); where one of them stops, so does the
clock. -/
theorem clock_eq_run (p : ClockIn) (s : State) :
    clock p s = andThen (runInputs p.events { s with outs := [] }) fun u =>
      .next (closeClock p s (p.ready { s with outs := [] }) u) := by
  cases hrst : p.rst with
  | true => simp [clock, ClockIn.events, ClockIn.ready, hrst, takeInput]
  | false =>
    cases hdone : p.xportDone <;>
      simp [clock, ClockIn.events, ClockIn.ready, hrst, hdone, takeInput, runInputs_byteThenTick,
        andThen_assoc]

/-! ### Nothing stops -/

/-- Under the invariant the one event that can stop is the read of a cell never written (I1). -/
theorem takeInput_completes {e : Input} {s : State} (hs : s.fd.Inv)
    (hread : ∀ i, e = .bufRead i → (s.fd.buf.read i.toNat).isSome = true) :
    ∃ t, takeInput e s = .next t := by
  cases e with
  | reset | tick | xportResult => exact ⟨_, rfl⟩
  | rxByte b => exact rxByte_completes hs b
  | encode id p => exact ⟨_, takeInput_encode id p s⟩
  | bufRead i =>
    obtain ⟨v, hv⟩ := Option.isSome_iff_exists.mp (hread i rfl)
    exact ⟨_, takeInput_bufRead hv⟩

theorem exec_completes (i : Instr) {s : State} (hs : s.fd.Inv) : ∃ t, exec i s = .next t := by
  rcases exec_cases i with ⟨id, p, hi⟩ | ⟨bytes, hi⟩ <;> rw [hi]
  · exact ⟨_, rfl⟩
  · exact rxBytes_completes hs

/-- A run without reads of the buffer does not stop, since every event keeps the invariant. -/
theorem runInputs_completes {es : List Input} {s : State} (hs : s.fd.Inv ∧ s.wd.Inv s.cfg)
    (hread : ∀ i, .bufRead i ∉ es) : ∃ t, runInputs es s = .next t := by
  induction es generalizing s with
  | nil => exact ⟨s, rfl⟩
  | cons e es ih =>
    simp only [List.mem_cons, not_or, forall_and] at hread
    obtain ⟨hhead, htail⟩ := hread
    obtain ⟨u, hu⟩ := takeInput_completes hs.1 fun i he => absurd he.symm (hhead i)
    rw [runInputs_cons, hu, andThen_next]
    exact ih (inv_keptByEvents.takeInput hu hs) htail

theorem bufRead_not_mem_events (p : ClockIn) (i : Byte) : .bufRead i ∉ p.events := by
  unfold ClockIn.events
  split_ifs <;> simp

theorem clock_completes (p : ClockIn) {s : State} (hs : s.fd.Inv ∧ s.wd.Inv s.cfg) :
    ∃ t, clock p s = .next t := by
  obtain ⟨u, hu⟩ := runInputs_completes (s := { s with outs := [] }) hs (bufRead_not_mem_events p)
  exact ⟨_, by rw [clock_eq_run, hu, andThen_next]⟩

/-! ### The obligations -/

/-- Settles O44: only a tick requests, and the tick that does is described by its inversion. -/
theorem onlyChecksRequestReconnect : Obligations.OnlyChecksRequestReconnect := by
  intro e s t added r h houts hr
  obtain rfl := request_only_from_tick h houts hr
  cases h
  exact ⟨rfl, tick_of_request houts hr⟩

/-- Settles O47: one case per event, the three that can emit by their own lemmas. -/
theorem eventsOfOneStep : Obligations.EventsOfOneStep := by
  intro e s t h
  cases e with
  | rxByte b => exact rxByte_events h
  | tick =>
    cases h
    exact tick_events s
  | xportResult ok =>
    cases h
    exact xportResult_events ok s
  | encode id p =>
    rw [takeInput_encode] at h
    cases h
    exact ⟨_, rfl, rfl⟩
  | bufRead i =>
    obtain ⟨v, -, rfl⟩ := bufRead_inversion h
    exact ⟨_, rfl, rfl⟩
  | reset =>
    cases h
    exact ⟨[], (List.append_nil _).symm, rfl⟩

/-- Settles O48: the invariant excludes every stop but the read of a cell never written. -/
theorem nothingIsFatal : Obligations.NothingIsFatal := by
  intro s hinv
  have hs := (inv_iff s).mp hinv
  exact ⟨fun _ => takeInput_completes hs.1, fun i => exec_completes i hs.1,
    fun p => clock_completes p hs⟩

/-- Settles O53: the clock is the run of its events, which answers by hypothesis, and its end. -/
theorem clockIsItsEventsInOrder : Obligations.ClockIsItsEventsInOrder := by
  intro p s u h
  exact ⟨_, by rw [clock_eq_run, h, andThen_next]; rfl⟩

/-- Settles O46: the two tables of R114, row by row. -/
theorem statusCodes : Obligations.StatusCodes :=
  ⟨⟨rfl, rfl⟩, fun _ _ => ⟨rfl, rfl⟩, fun _ => ⟨rfl, rfl⟩, rfl, rfl⟩

end Sys2Proof.Machine
end

section
/-! SUPPORT. Reset and hazards (`70_reset_and_hazards.md`): how long an attempt can last and how long a frame's
cells stand, the boot, and the output ports of a clock. -/

namespace Sys2Proof.Machine

/-! ### How long an attempt lasts -/

/-- At most this many bytes, whatever they are, end the attempt (R137, R139). -/
def Fd.bytesToEnd (f : Fd) : Nat :=
  match f.state with
  | .awaitingStart => 0
  | .awaitingSize => 257
  | .awaitingPayload => f.size.toNat - f.cnt.toNat + 1
  | .awaitingChecksum => 1

/-- Within an attempt every byte taken brings its end nearer. -/
theorem rxByte_bytesToEnd_lt {b : Byte} {s t : State} (h : rxByte b s = .next t) (hfd : s.fd.Inv)
    (gate : s.rxEnable = true) (hbusy : s.fd.state ≠ .awaitingStart) :
    t.fd.bytesToEnd < s.fd.bytesToEnd := by
  cases rxByte_inversion h with
  | dropped closed => simp [gate] at closed
  | startMarker _ phase | noise _ phase => exact absurd phase hbusy
  | zeroSize _ phase | mismatch _ phase | valid _ phase => simp [Fd.bytesToEnd, phase]
  | size _ phase =>
    have hsize := b.isLt
    simp only [Fd.bytesToEnd, phase, rxSize_fd]
    omega
  | payload _ phase =>
    have hlt := cnt_lt_size phase hfd
    have hcnt := toNat_add_one_of_lt hlt
    by_cases hlast : s.fd.cnt + 1 = s.fd.size
    · simp only [Fd.bytesToEnd, phase, rxPayload_fd_state, hlast, if_true]
      omega
    · simp only [Fd.bytesToEnd, phase, rxPayload_fd_state, rxPayload_fd_size, rxPayload_fd_cnt,
        hlast, if_false, hcnt]
      omega

/-- A run of bytes as long as the bound ends the attempt on its way. -/
theorem rxBytes_reaches_idle {bytes : List Byte} {s : State} (hfd : s.fd.Inv)
    (gate : s.rxEnable = true) (hlength : s.fd.bytesToEnd ≤ bytes.length) :
    ∃ n, n ≤ s.fd.bytesToEnd ∧
      ∃ t, rxBytes (bytes.take n) s = .next t ∧ t.fd.state = .awaitingStart := by
  induction bytes generalizing s with
  | nil =>
    refine ⟨0, Nat.zero_le _, s, rfl, ?_⟩
    by_contra hbusy
    obtain ⟨t, ht⟩ := rxByte_completes hfd 0
    have hlt := rxByte_bytesToEnd_lt ht hfd gate hbusy
    rw [List.length_nil] at hlength
    omega
  | cons b bytes ih =>
    by_cases hidle : s.fd.state = .awaitingStart
    · exact ⟨0, Nat.zero_le _, s, rfl, hidle⟩
    · obtain ⟨u, hu⟩ := rxByte_completes hfd b
      obtain ⟨-, -, -, hstate, hdown, -⟩ := rxByte_frame hu
      have hlt := rxByte_bytesToEnd_lt hu hfd gate hidle
      rw [List.length_cons] at hlength
      obtain ⟨n, hn, t, ht, hend⟩ := ih (rxByte_fd_inv hu hfd)
        ((rxEnable_congr hstate hdown).trans gate) (by omega)
      refine ⟨n + 1, by omega, t, ?_, hend⟩
      rw [List.take_succ_cons, rxBytes_cons, hu, andThen_next, ht]

/-! ### How long a frame's cells stand -/

/-- At least this many bytes were taken since the decoder was last idle, up to the last payload byte: the
start byte, the size byte, and one for each cell counted (R136). -/
def Fd.bytesSinceIdle (f : Fd) : Nat :=
  match f.state with
  | .awaitingStart => 0
  | .awaitingSize => f.cnt.toNat + 1
  | .awaitingPayload => f.cnt.toNat + 2
  | .awaitingChecksum => 0

/-- One byte moves an attempt on by at most one; a count that wraps moves it back. -/
theorem rxByte_bytesSinceIdle_le {b : Byte} {s t : State} (h : rxByte b s = .next t) :
    t.fd.bytesSinceIdle ≤ s.fd.bytesSinceIdle + 1 := by
  cases rxByte_inversion h with
  | dropped | noise => exact Nat.le_succ _
  | startMarker | zeroSize | valid | mismatch => simp [Fd.bytesSinceIdle]
  | size _ phase => simp [Fd.bytesSinceIdle, phase]
  | payload _ phase =>
    have hcnt : (s.fd.cnt + 1).toNat ≤ s.fd.cnt.toNat + 1 := by bv_omega
    by_cases hlast : s.fd.cnt + 1 = s.fd.size
    · simp only [Fd.bytesSinceIdle, rxPayload_fd_state, hlast, if_true]
      exact Nat.zero_le _
    · simp only [Fd.bytesSinceIdle, phase, rxPayload_fd_state, rxPayload_fd_cnt, hlast, if_false]
      omega

theorem rxBytes_bytesSinceIdle_le {bytes : List Byte} {s t : State} (h : rxBytes bytes s = .next t) :
    t.fd.bytesSinceIdle ≤ s.fd.bytesSinceIdle + bytes.length := by
  induction bytes generalizing s with
  | nil =>
    cases h
    exact Nat.le_refl _
  | cons b bytes ih =>
    obtain ⟨u, hu, ht⟩ := andThen_eq_next.mp h
    have hone := rxByte_bytesSinceIdle_le hu
    have hrest := ih ht
    rw [List.length_cons]
    omega

/-! ### The boot -/

/-- Ticks that complete no period write the two counters alone (R100). -/
theorem runTicks_before_check {k : Nat} {s : State} (hk : s.wd.checkDiv + k < s.cfg.checkPeriod) :
    ∃ elapsed, runInputs (List.replicate k .tick) s =
      .next (s.setCounters elapsed (s.wd.checkDiv + k)) := by
  induction k generalizing s with
  | zero => exact ⟨s.wd.elapsed, rfl⟩
  | succ k ih =>
    have hoff : s.wd.checkDiv + 1 ≠ s.cfg.checkPeriod := by omega
    have hstep : takeInput .tick s = .next
        (s.setCounters (satInc s.cfg.elapsedMax s.wd.elapsed) (s.wd.checkDiv + 1)) :=
      congrArg Host.Outcome.next (tick_offCadence hoff)
    have hk' : s.wd.checkDiv + 1 + k < s.cfg.checkPeriod := by omega
    obtain ⟨elapsed, hrun⟩ := ih
      (s := s.setCounters (satInc s.cfg.elapsedMax s.wd.elapsed) (s.wd.checkDiv + 1)) hk'
    refine ⟨elapsed, ?_⟩
    rw [List.replicate_succ, runInputs_cons, hstep, andThen_next, hrun, setCounters_wd,
      Nat.add_right_comm]
    rfl

/-- Without a link, the tick that completes a whole period from the divider's reset value requests a
connect with no handle to release, and nothing else comes before it (R101). -/
theorem runTicks_connect {s : State} (hv : s.cfg.valid = true) (hidle : s.wd.state = .idle)
    (hdown : s.wd.linkDown = true) (hdiv : s.wd.checkDiv = 0) :
    ∃ t, runInputs (List.replicate s.cfg.checkPeriod .tick) s = .next t ∧
      t.outs = s.outs ++ [.reconnectReq false] ∧ t.wd.state = .reconnecting ∧ t.wd.checkDiv = 0 ∧
      t.fd = s.fd ∧ t.cfg = s.cfg := by
  obtain ⟨k, hk⟩ := Nat.exists_eq_add_one.mpr ((valid_iff _).mp hv).1
  obtain ⟨elapsed, hrun⟩ := runTicks_before_check (s := s) (k := k) (by omega)
  rw [hdiv, Nat.zero_add] at hrun
  have hcheck := tick_onCadence (s := s.setCounters elapsed k) hk.symm
  rw [check_connect (s := (s.setCounters elapsed k).setCounters _ 0) hidle hdown] at hcheck
  refine ⟨tick (s.setCounters elapsed k), ?_, ?_⟩
  · rw [hk, List.replicate_succ', runInputs_append, hrun]
    rfl
  · rw [hcheck]
    exact ⟨rfl, rfl, rfl, rfl, rfl⟩

/-! ### The output ports of a clock -/

/-- The decoder's status that an output is, if it is one (codes 1 and 2 of R114). -/
def Output.decoderStatus? : Output → Option Status
  | .status .zeroSize => some .zeroSize
  | .status (.checksumMismatch r c) => some (.checksumMismatch r c)
  | _ => none

/-- The watchdog's status that an output is, if it is one (codes 3 and 4 of R114). -/
def Output.watchdogStatus? : Output → Option Status
  | .status (.stall n) => some (.stall n)
  | .status .acquireFail => some .acquireFail
  | _ => none

/-- The release flag of a reconnect request, if the output is one. -/
def Output.request? : Output → Option Bool
  | .reconnectReq r => some r
  | _ => none

theorem decoderStatus_eq_findSome? (os : List Output) :
    decoderStatus os = os.findSome? Output.decoderStatus? := by
  induction os with
  | nil => rfl
  | cons o os ih =>
    cases o with
    | status st =>
      cases st with
      | zeroSize | checksumMismatch => rfl
      | stall | acquireFail => exact ih
    | _ => exact ih

theorem watchdogStatus_eq_findSome? (os : List Output) :
    watchdogStatus os = os.findSome? Output.watchdogStatus? := by
  induction os with
  | nil => rfl
  | cons o os ih =>
    cases o with
    | status st =>
      cases st with
      | zeroSize | checksumMismatch => exact ih
      | stall | acquireFail => rfl
    | _ => exact ih

theorem reconnectRequest_eq_findSome? (os : List Output) :
    reconnectRequest os = os.findSome? Output.request? := by
  induction os with
  | nil => rfl
  | cons o os ih =>
    cases o with
    | reconnectReq => rfl
    | _ => exact ih

theorem reconnectRequest_isSome (os : List Output) :
    (reconnectRequest os).isSome = true ↔ ∃ r, .reconnectReq r ∈ os := by
  induction os with
  | nil => simp [reconnectRequest]
  | cons o os ih =>
    cases o with
    | reconnectReq r =>
      simp only [reconnectRequest, Option.isSome_some, true_iff]
      exact ⟨r, List.mem_cons_self⟩
    | _ => simp [reconnectRequest, ih]

theorem hasFrame_iff (os : List Output) :
    hasFrame os = true ↔ ∃ p c v, .frameOut p c v ∈ os := by
  induction os with
  | nil => simp [hasFrame]
  | cons o os ih =>
    cases o with
    | frameOut p c v =>
      simp only [hasFrame, true_iff]
      exact ⟨p, c, v, List.mem_cons_self⟩
    | _ => simp [hasFrame, ih]

/-- Where at most one output is of a kind, the first of the kind is whichever is there. -/
theorem findSome?_of_mem {α : Type} {g : Output → Option α} {os : List Output} {o : Output} {a : α}
    (hone : (os.filterMap g).length ≤ 1) (hmem : o ∈ os) (ho : g o = some a) :
    os.findSome? g = some a := by
  have ha : a ∈ os.filterMap g := List.mem_filterMap.mpr ⟨o, hmem, ho⟩
  rw [← List.head?_filterMap]
  match hkind : os.filterMap g with
  | [] => simp [hkind] at ha
  | [b] => simpa [hkind, eq_comm] using ha
  | _ :: _ :: _ => simp [hkind] at hone

/-- What the events of a clock can be, in the order of its steps: the answer's, the byte's and the tick's. A
failed answer leaves no link, so no `Stall` follows it in the same clock (R101, R105). -/
structure ClockEvents (xs ys zs : List Output) : Prop where
  answer : xs = [] ∨ xs = [.status .acquireFail]
  byte : ys = [] ∨ (∃ p c, ys = [.frameOut p c true]) ∨ ys = [.status .zeroSize] ∨
    ∃ r c, ys = [.status (.checksumMismatch r c)]
  tick : zs = [] ∨ (∃ r, zs = [.reconnectReq r]) ∨
    xs = [] ∧ ∃ n, zs = [.status (.stall n), .reconnectReq true]

namespace ClockEvents

variable {xs ys zs : List Output} (h : ClockEvents xs ys zs)
include h

theorem requests_le_one : ((xs ++ ys ++ zs).filterMap Output.request?).length ≤ 1 := by
  have hxs : xs.filterMap Output.request? = [] := by
    rcases h.answer with rfl | rfl <;> rfl
  have hys : ys.filterMap Output.request? = [] := by
    rcases h.byte with rfl | ⟨p, c, rfl⟩ | rfl | ⟨r, c, rfl⟩ <;> rfl
  rw [List.filterMap_append, List.filterMap_append, hxs, hys]
  rcases h.tick with rfl | ⟨r, rfl⟩ | ⟨-, n, rfl⟩
  · exact Nat.zero_le 1
  · exact Nat.le_refl 1
  · exact Nat.le_refl 1

theorem decoderStatuses_le_one :
    ((xs ++ ys ++ zs).filterMap Output.decoderStatus?).length ≤ 1 := by
  have hxs : xs.filterMap Output.decoderStatus? = [] := by
    rcases h.answer with rfl | rfl <;> rfl
  have hzs : zs.filterMap Output.decoderStatus? = [] := by
    rcases h.tick with rfl | ⟨r, rfl⟩ | ⟨-, n, rfl⟩ <;> rfl
  have hys : ys.length ≤ 1 := by
    rcases h.byte with rfl | ⟨p, c, rfl⟩ | rfl | ⟨r, c, rfl⟩ <;> simp
  rw [List.filterMap_append, List.filterMap_append, hxs, hzs, List.append_nil]
  exact (List.length_filterMap_le _ ys).trans hys

theorem watchdogStatuses_le_one :
    ((xs ++ ys ++ zs).filterMap Output.watchdogStatus?).length ≤ 1 := by
  have hys : ys.filterMap Output.watchdogStatus? = [] := by
    rcases h.byte with rfl | ⟨p, c, rfl⟩ | rfl | ⟨r, c, rfl⟩ <;> rfl
  have hxs : xs.length ≤ 1 := by
    rcases h.answer with rfl | rfl <;> simp
  have hxs' := (List.length_filterMap_le Output.watchdogStatus? xs).trans hxs
  rw [List.filterMap_append, List.filterMap_append, hys, List.append_nil]
  rcases h.tick with rfl | ⟨r, rfl⟩ | ⟨rfl, n, rfl⟩
  · rwa [List.filterMap_nil, List.append_nil]
  · rwa [List.filterMap_cons_none rfl, List.filterMap_nil, List.append_nil]
  · exact Nat.le_refl 1

end ClockEvents

/-- The answer's inversion, as to its events: none, or a failure that leaves no link (R105). -/
theorem xportResult_inversion (ok : Bool) (s : State) :
    (xportResult ok s).outs = s.outs ∨
      (xportResult ok s).outs = s.outs ++ [.status .acquireFail] ∧
        (xportResult ok s).wd.linkDown = true := by
  cases hs : s.wd.state with
  | idle => exact .inl (by rw [xportResult_idle ok hs])
  | reconnecting =>
    cases ok with
    | true => exact .inl (by rw [xportResult_true hs])
    | false => exact .inr (by simp [xportResult_false hs])

/-- The events of a clock, step by step. -/
theorem clock_events {p : ClockIn} {s t : State} {os : List Output} {o : ClockOut}
    (h : clock p s = .next t) (houts : t.outs = s.outs ++ os ++ [.ports o]) :
    ∃ xs ys zs, os = xs ++ ys ++ zs ∧ ClockEvents xs ys zs := by
  rcases clock_inversion h with ⟨-, rfl⟩ | ⟨-, a, b, c, ha, hb, hc, rfl⟩
  · have hos : [] = os := by simpa using List.append_inj_left' houts rfl
    exact ⟨[], [], [], hos.symm, .inl rfl, .inl rfl, .inl rfl⟩
  · have hos : c.outs = os := by simpa using List.append_inj_left' houts rfl
    have hanswer : a.outs = [] ∨ a.outs = [.status .acquireFail] ∧ a.wd.linkDown = true := by
      rw [ha]
      split
      · exact xportResult_inversion p.xportOk { s with outs := [] }
      · exact .inl rfl
    obtain ⟨ys, hys, hdown, hbyte⟩ : ∃ ys, b.outs = a.outs ++ ys ∧
        b.wd.linkDown = a.wd.linkDown ∧ ClockEvents [] ys [] := by
      split at hb
      · obtain ⟨ys, hys, hevents⟩ := rxByte_events hb
        obtain ⟨-, -, -, -, hdown, -⟩ := rxByte_frame hb
        exact ⟨ys, hys, hdown, .inl rfl, hevents, .inl rfl⟩
      · cases hb
        exact ⟨[], (List.append_nil _).symm, rfl, .inl rfl, .inl rfl, .inl rfl⟩
    have hlink : b.wd.linkDown = false → a.outs = [] := fun hup =>
      hanswer.resolve_right fun hfailed => by simp [hdown, hfailed.2] at hup
    obtain ⟨zs, hzs, htick⟩ : ∃ zs, c.outs = b.outs ++ zs ∧ ClockEvents a.outs [] zs := by
      have hanswer' := hanswer.imp_right And.left
      rw [hc]
      split
      · rcases tick_inversion b with ⟨hnone, -⟩ | ⟨-, -, ⟨-, hreq⟩ | ⟨hup, n, hstall⟩⟩
        · exact ⟨[], by rw [hnone, List.append_nil], hanswer', .inl rfl, .inl rfl⟩
        · exact ⟨_, hreq, hanswer', .inl rfl, .inr (.inl ⟨false, rfl⟩)⟩
        · exact ⟨_, hstall, hanswer', .inl rfl, .inr (.inr ⟨hlink hup, n, rfl⟩)⟩
      · exact ⟨[], (List.append_nil _).symm, hanswer', .inl rfl, .inl rfl⟩
    exact ⟨a.outs, ys, zs, by rw [← hos, hzs, hys], htick.answer, hbyte.byte, htick.tick⟩

/-- The ports of a clock, whose final state is that of its events' run. -/
theorem ports_of_clock {p : ClockIn} {s u t : State} {o : ClockOut}
    (hrun : runInputs p.events { s with outs := [] } = .next u) (h : clock p s = .next t)
    (houts : t.outs = s.outs ++ u.outs ++ [.ports o]) :
    o = clockPorts p s (p.ready (s.withOuts [])) u := by
  rw [clock_eq_run, hrun, andThen_next] at h
  cases h
  rw [closeClock_outs, List.append_cancel_left_eq, List.singleton_inj, Output.ports.injEq] at houts
  exact houts.symm

/-- A code port is 0 in a clock without a status of its unit (R114, log 17). -/
theorem statusPort_of_isSome_eq_false {st : Option Status} (h : st.isSome = false) :
    statusPort st = 0 := by
  rw [Option.isSome_eq_false_iff, Option.isNone_iff_eq_none] at h
  rw [h, statusPort]

/-- The gate where the byte is offered is the one after the answer, whatever was emitted before (log 10). -/
theorem ready_withOuts {p : ClockIn} (s : State) (os : List Output) (h : p.rst = false) :
    p.ready (s.withOuts os) =
      (if p.xportDone then xportResult p.xportOk s else s).rxEnable := by
  cases hdone : p.xportDone with
  | false =>
    simp only [ClockIn.ready, h, hdone, Bool.false_eq_true, if_false]
    rfl
  | true =>
    obtain ⟨added, ha⟩ := xportResult_withOuts p.xportOk s
    simp only [ClockIn.ready, h, hdone, Bool.false_eq_true, if_false, if_true, ha os]
    rfl

section Ports

variable {p : ClockIn} {s u : State} {ready : Bool}

theorem clockPorts_reconnectRelease {r : Bool} (h : reconnectRequest u.outs = some r) :
    (clockPorts p s ready u).reconnectRelease = r := by
  simp [clockPorts, h]

theorem clockPorts_fdStatusCode {st : Status} (h : decoderStatus u.outs = some st) :
    (clockPorts p s ready u).fdStatusCode = st.code := by
  simp [clockPorts, h, statusPort]

theorem clockPorts_mismatch {r c : Byte}
    (h : decoderStatus u.outs = some (.checksumMismatch r c)) :
    (clockPorts p s ready u).fdStatusRx = r ∧ (clockPorts p s ready u).fdStatusCalc = c := by
  simp [clockPorts, h]

theorem clockPorts_wdStatusCode {st : Status} (h : watchdogStatus u.outs = some st) :
    (clockPorts p s ready u).wdStatusCode = st.code := by
  simp [clockPorts, h, statusPort]

theorem clockPorts_wdStatusElapsed {n : Nat} (h : watchdogStatus u.outs = some (.stall n)) :
    (clockPorts p s ready u).wdStatusElapsed = n := by
  simp [clockPorts, h]

theorem clockPorts_rdData {v : Byte} (h : s.fd.buf.read p.rdAddr.toNat = some v) :
    (clockPorts p s ready u).rdData = v := by
  simp [clockPorts, State.memRead, h]

theorem clockPorts_encodedShort (h : p.encHasP = false) :
    let o := clockPorts p s ready u
    o.encLen = 4 ∧ o.encKnown = known p.encId ∧ o.encFormOk = formOk p.encId none ∧
      o.encFrame = (0x61 : Byte) ++ (1 : Byte) ++ p.encId ++ (0x62 + p.encId) ++ (0 : Byte) := by
  have hnone : optionalPayload p.encHasP p.encP = none := by simp [optionalPayload, h]
  simp only [clockPorts, hnone, encodeFrame_short]
  exact ⟨rfl, trivial, trivial, rfl⟩

theorem clockPorts_encodedLong (h : p.encHasP = true) :
    let o := clockPorts p s ready u
    o.encLen = 5 ∧ o.encKnown = known p.encId ∧ o.encFormOk = formOk p.encId (some p.encP) ∧
      o.encFrame =
        (0x61 : Byte) ++ (2 : Byte) ++ p.encId ++ p.encP ++ (0x63 + p.encId + p.encP) := by
  have hsome : optionalPayload p.encHasP p.encP = some p.encP := by simp [optionalPayload, h]
  simp only [clockPorts, hsome, encodeFrame_long]
  exact ⟨rfl, trivial, trivial, rfl⟩

end Ports

/-! ### The obligations -/

/-- Settles O49: the reset values of both units, over the buffer as it was. -/
theorem resetEvent_resetsRegisters : Obligations.ResetEvent :=
  fun _ => rfl

/-- Settles O30: every byte of an attempt brings its end nearer, and the bytes are as many as the bound. -/
theorem attemptEndsWithinBound : Obligations.AttemptEndsWithinBound := by
  intro s bytes hs gate bound hlength
  exact rxBytes_reaches_idle ((inv_iff s).mp hs).1 gate hlength.ge

/-- Settles O31: a byte that writes cell `k` has `k + 2` bytes of its attempt before it. -/
theorem frameCellsStandForTheirWindow : Obligations.FrameCellsStandForTheirWindow := by
  intro s t k bytes idle hlength h
  rcases rxBytes_cell h k with hread | ⟨n, v, hn, hv, phase, hk⟩
  · exact hread
  · have htaken := rxBytes_bytesSinceIdle_le hv
    have hprefix := List.length_take_le n bytes
    simp only [Fd.bytesSinceIdle, idle, phase] at htaken
    omega

/-- Settles O45: the first period of ticks up to its last, that tick, and after a failure the next period. -/
theorem bootSequence : Obligations.BootSequence := by
  intro s hv hreset
  have hdiv : s.wd.checkDiv = 0 := by rw [hreset]; rfl
  have hidle : s.wd.state = .idle := by rw [hreset]; rfl
  have hdown : s.wd.linkDown = true := by rw [hreset]; rfl
  refine ⟨fun k hk => ?_, ?_⟩
  · obtain ⟨elapsed, hrun⟩ := runTicks_before_check (s := s) (k := k) (by omega)
    refine ⟨_, hrun, rfl, ?_⟩
    simp [State.rxEnable, hdown]
  · obtain ⟨u, hu, houts, hstate, hudiv, hfd, hcfg⟩ := runTicks_connect hv hidle hdown hdiv
    have hsuccess := xportResult_true hstate
    have hfailure := xportResult_false hstate
    have hcfg' : (xportResult false u).cfg = s.cfg := (xportResult_frame false u).1.trans hcfg
    obtain ⟨w, hw, hwouts, hwstate, -⟩ := runTicks_connect (s := xportResult false u) (hcfg' ▸ hv)
      (by rw [hfailure]) (by rw [hfailure]) (by rw [hfailure]; exact hudiv)
    rw [hcfg'] at hw
    exact ⟨u, hu, houts, hstate, hfd, ⟨_, congrArg Host.Outcome.next hsuccess, rfl, rfl, hfd⟩,
      xportResult false u, rfl, by simp [hfailure, State.rxEnable], by simp [hfailure, houts],
      w, hw, hwstate, by simp [hwouts, hfailure, houts]⟩

/-- Settles O54: the ports read the run's end state, and of each kind a clock has at most one event. -/
theorem clockPorts_carryEvents : Obligations.ClockPorts := by
  intro p s u t o hrun hclock houts
  obtain ⟨xs, ys, zs, hos, hevents⟩ := clock_events hclock houts
  have hrequest : ∀ r, .reconnectReq r ∈ u.outs → reconnectRequest u.outs = some r := fun r hr =>
    (reconnectRequest_eq_findSome? _).trans
      (findSome?_of_mem (hos ▸ hevents.requests_le_one) hr rfl)
  have hdecoder : ∀ {o st}, o ∈ u.outs → Output.decoderStatus? o = some st →
      decoderStatus u.outs = some st := fun ho hst =>
    (decoderStatus_eq_findSome? _).trans
      (findSome?_of_mem (hos ▸ hevents.decoderStatuses_le_one) ho hst)
  have hwatchdog : ∀ {o st}, o ∈ u.outs → Output.watchdogStatus? o = some st →
      watchdogStatus u.outs = some st := fun ho hst =>
    (watchdogStatus_eq_findSome? _).trans
      (findSome?_of_mem (hos ▸ hevents.watchdogStatuses_le_one) ho hst)
  obtain rfl := ports_of_clock hrun hclock houts
  refine ⟨hasFrame_iff _, reconnectRequest_isSome _, fun r hr => ?release, decoderStatus_isSome _,
    watchdogStatus_isSome _, fun hzero => ?zeroSize, fun r c hsum => ?mismatch,
    statusPort_of_isSome_eq_false, fun n hstall => ?stall, fun hfail => ?acquireFail,
    statusPort_of_isSome_eq_false, rfl, rfl, ready_withOuts s [], fun _ => clockPorts_rdData,
    clockPorts_encodedShort, clockPorts_encodedLong⟩
  case release => exact clockPorts_reconnectRelease (hrequest r hr)
  case zeroSize => exact clockPorts_fdStatusCode (hdecoder hzero rfl)
  case mismatch =>
    have hst := hdecoder hsum rfl
    exact ⟨clockPorts_fdStatusCode hst, clockPorts_mismatch hst⟩
  case stall =>
    have hst := hwatchdog hstall rfl
    exact ⟨clockPorts_wdStatusCode hst, clockPorts_wdStatusElapsed hst⟩
  case acquireFail => exact clockPorts_wdStatusCode (hwatchdog hfail rfl)

end Sys2Proof.Machine
end
